-- ==== Sys2Proof/Word.lean ====
section
/-! DEFINITION. The words of the HBK (00_scope R12) and the types of its numbers: a binary64 value, an integer
extended with the two infinities, the four channels. -/
namespace Sys2Proof

/-- A command, operand or response word, and the pattern of a binary64 register (00_scope R12). -/
abbrev Word := BitVec 64

/-- A byte of the surface memory (00_scope R12). -/
abbrev Byte := BitVec 8

/-- An element of the HDR memory: the pattern of a binary32 value (00_scope R12). -/
abbrev Elem := BitVec 32

/-- A binary64 value (00_scope R14). `fin neg mag` is the finite value of magnitude `mag * 2^-1074`: the least
subnormal is the unit, so every finite binary64 value is a whole number of units. There is one NaN, because no result
of the HBK depends on a NaN's pattern (00_scope R10; log 3). -/
inductive F64 where
  | nan
  | inf (neg : Bool)
  | fin (neg : Bool) (mag : Nat)
deriving DecidableEq, Repr, Inhabited

/-- An integer extended with +inf and -inf (00_scope R16). -/
inductive EInt where
  | negInf
  | fin (n : Int)
  | posInf
deriving DecidableEq, Repr

/-- The channels of a pixel (00_scope R21). -/
inductive Chan where
  | r | g | b | a
deriving DecidableEq, Repr

/-- The channel index c of 00_scope R21. -/
def Chan.index : Chan → Nat
  | .r => 0
  | .g => 1
  | .b => 2
  | .a => 3

/-- The channels in index order (00_scope R21). -/
def Chan.all : List Chan := [.r, .g, .b, .a]

/-- Four like things, one for each channel: a register file RLO0 to RLO3, a colour. -/
structure Quad (α : Type) where
  r : α
  g : α
  b : α
  a : α
deriving DecidableEq, Repr

/-- The member for a channel. -/
def Quad.get {α : Type} (q : Quad α) : Chan → α
  | .r => q.r
  | .g => q.g
  | .b => q.b
  | .a => q.a

/-- The quad with one channel's member replaced. -/
def Quad.set {α : Type} (q : Quad α) (c : Chan) (v : α) : Quad α :=
  match c with
  | .r => { q with r := v }
  | .g => { q with g := v }
  | .b => { q with b := v }
  | .a => { q with a := v }

/-- The four members turned into four others. -/
def Quad.map {α β : Type} (f : α → β) (q : Quad α) : Quad β :=
  { r := f q.r, g := f q.g, b := f q.b, a := f q.a }

end Sys2Proof
end

