-- ==== Sys2Proof/Config.lean ====
section
/-! DEFINITION. What an instance of the HBK fixes (00_scope section 3) and the free values: constants with no body, of
which nothing can be proved but what their types say. -/
namespace Sys2Proof

/-- Which bodies the overlay family has (00_scope R8): the spec's default bodies of 40_blend R166 to R168, or the k-th
family of uninterpreted bodies. PRESUMED for `standard`: the spec marks its defaults as general knowledge (log 5). -/
inductive Bases where
  | standard
  | other (k : Nat)
deriving DecidableEq, Repr

/-- The parameters of an instance: the buffer size (00_scope R7), the overlay family (R8), and how many response words and
Present events may wait before the HBK stops accepting command words (70_reset R301; log 12). They are data of the state
that no step changes, so that every statement covers every instance (log 1). -/
structure Params where
  width : Nat
  height : Nat
  bases : Bases
  responseDepth : Nat
  presentDepth : Nat
deriving DecidableEq, Repr

/-- The bound of 00_scope R7, 1 <= W <= 65535 and 1 <= H <= 65535, and streams with room for something, without which a
reading host would not keep the HBK going (70_reset R301, R303). -/
abbrev Params.legal (p : Params) : Prop :=
  1 ≤ p.width ∧ p.width ≤ 65535 ∧ 1 ≤ p.height ∧ p.height ≤ 65535 ∧ 1 ≤ p.responseDepth ∧ 1 ≤ p.presentDepth

namespace Config

/-- The draw NAN32 of 00_scope R10: sign and payload less one, for the draw numbered `n` at element index `i`. -/
opaque nan32Draw : Nat → Nat → Bool × Fin 8388607

/-- The draw NAN64 of 00_scope R10: sign and payload less one, for the draw numbered `n` at response position `k`. -/
opaque nan64Draw : Nat → Nat → Bool × Fin 4503599627370495

/-- The pattern of the assembler's literal `nan` at operand place `k` of a line, as sign and payload less one. DESIGN
CHOICE: 30_encoding R119 fixes no pattern (log 15). -/
opaque nanLiteral : Nat → Bool × Fin 4503599627370495

/-- The branch bodies of the k-th overlay family that is not the default, on the patterns of two binary64 values and
giving the pattern of one (00_scope R8, 40_blend R166 to R168; log 5). -/
opaque ovlHi : Nat → Word → Word → Word
opaque ovlLo : Nat → Word → Word → Word
opaque hlLo : Nat → Word → Word → Word
opaque hlHi : Nat → Word → Word → Word
opaque slLo : Nat → Word → Word → Word
opaque slHi : Nat → Word → Word → Word

/-- What a host read of a SURF byte of a running command's rectangle gives (20_memory R88; log 8). -/
opaque raceByte : Nat → Byte

/-- Whether a host write of such a byte is seen by the command (20_memory R88; log 8). -/
opaque raceSeen : Nat → Bool

/-- Whether such a host write outlasts the command's own write of the byte (20_memory R88; log 8). -/
opaque raceWins : Nat → Bool

end Config
end Sys2Proof
end

