-- ==== Sys2Proof/Syntax.lean ====
section
/-! DEFINITION. The command set: one constructor for each row of spec/opcode_table.json (30_encoding R110, R112). -/
namespace Sys2Proof

/-- The twenty blend modes, in the order of their MSEL values (30_encoding R112). -/
inductive BlendMode where
  | source
  | destination
  | clear
  | xor
  | sourceOver
  | sourceIn
  | sourceOut
  | sourceAtop
  | destinationOver
  | destinationIn
  | destinationOut
  | destinationAtop
  | add
  | subtract
  | multiply
  | average
  | screen
  | overlay
  | hardLight
  | softLight
deriving DecidableEq, Repr

/-- The modes in MSEL order (30_encoding R112). -/
def BlendMode.all : List BlendMode :=
  [.source, .destination, .clear, .xor, .sourceOver,
   .sourceIn, .sourceOut, .sourceAtop, .destinationOver, .destinationIn,
   .destinationOut, .destinationAtop, .add, .subtract, .multiply,
   .average, .screen, .overlay, .hardLight, .softLight]

/-- The MSEL value of a mode, the content of MODE.SEL (30_encoding R112). -/
def BlendMode.code : BlendMode → BitVec 5
  | .source => 0
  | .destination => 1
  | .clear => 2
  | .xor => 3
  | .sourceOver => 4
  | .sourceIn => 5
  | .sourceOut => 6
  | .sourceAtop => 7
  | .destinationOver => 8
  | .destinationIn => 9
  | .destinationOut => 10
  | .destinationAtop => 11
  | .add => 12
  | .subtract => 13
  | .multiply => 14
  | .average => 15
  | .screen => 16
  | .overlay => 17
  | .hardLight => 18
  | .softLight => 19

/-- The control registers (10_state R34). -/
inductive Reg where
  | status
  | mode
  | galpha
  | rlo (c : Chan)
  | rhi (c : Chan)
  | fill (c : Chan)
  | geom
deriving DecidableEq, Repr

/-- The RDREG index of a register (10_state R34). -/
def Reg.index : Reg → BitVec 5
  | .status => 0
  | .mode => 1
  | .galpha => 2
  | .rlo .r => 3
  | .rlo .g => 4
  | .rlo .b => 5
  | .rlo .a => 6
  | .rhi .r => 7
  | .rhi .g => 8
  | .rhi .b => 9
  | .rhi .a => 10
  | .fill .r => 11
  | .fill .g => 12
  | .fill .b => 13
  | .fill .a => 14
  | .geom => 15

/-- The commands, with their operand words as they stand in the packet (30_encoding R108, R110). -/
inductive Instr where
  /-- NOP (43_config R231). -/
  | nop
  /-- SETMODE with the selector in the MSEL field (43_config R232); well formed for the selectors that name no mode. -/
  | setmode (msel : BitVec 5)
  /-- SETGA (43_config R233). -/
  | setga (ga : Word)
  /-- SETRANGE (43_config R234). -/
  | setrange (ch : Chan) (low high : Word)
  /-- SETFILL (43_config R235). -/
  | setfill (r g b a : Word)
  /-- SETFILL with DA = 1: the alpha word `a` is carried and ignored (41_compositor R188). -/
  | setfillDa (r g b a : Word)
  /-- BLENDPX (41_compositor R187). -/
  | blendpx (x y r g b a : Word)
  /-- BLENDPX with DA = 1: the alpha word `a` is carried and ignored (41_compositor R188). -/
  | blendpxDa (x y r g b a : Word)
  /-- FILLRECT (41_compositor R189). -/
  | fillrect (x y w h : Word)
  /-- CLEARRECT (41_compositor R190). -/
  | clearrect (x y w h : Word)
  /-- DRAWIMG (41_compositor R191). -/
  | drawimg (dx dy dw dh : Word)
  /-- TONEMAP (42_tonemap R217). -/
  | tonemap (x y w h : Word)
  /-- TONEMAPALL (42_tonemap R218). -/
  | tonemapall
  /-- READPX (43_config R236). -/
  | readpx (x y : Word)
  /-- MAPPX (42_tonemap R219). -/
  | mappx (x y : Word)
  /-- EXTRACT (43_config R237). -/
  | extract (x y w h : Word)
  /-- RDREG (43_config R238). -/
  | rdreg (reg : Reg)
  /-- SETMODE source (40_blend R149). -/
  | setmodeSource
  /-- SETMODE destination (40_blend R150). -/
  | setmodeDestination
  /-- SETMODE clear (40_blend R151). -/
  | setmodeClear
  /-- SETMODE xor (40_blend R152). -/
  | setmodeXor
  /-- SETMODE source-over (40_blend R153). -/
  | setmodeSourceOver
  /-- SETMODE source-in (40_blend R154). -/
  | setmodeSourceIn
  /-- SETMODE source-out (40_blend R155). -/
  | setmodeSourceOut
  /-- SETMODE source-atop (40_blend R156). -/
  | setmodeSourceAtop
  /-- SETMODE destination-over (40_blend R157). -/
  | setmodeDestinationOver
  /-- SETMODE destination-in (40_blend R158). -/
  | setmodeDestinationIn
  /-- SETMODE destination-out (40_blend R159). -/
  | setmodeDestinationOut
  /-- SETMODE destination-atop (40_blend R160). -/
  | setmodeDestinationAtop
  /-- SETMODE add (40_blend R161). -/
  | setmodeAdd
  /-- SETMODE subtract (40_blend R162). -/
  | setmodeSubtract
  /-- SETMODE multiply (40_blend R163). -/
  | setmodeMultiply
  /-- SETMODE average (40_blend R164). -/
  | setmodeAverage
  /-- SETMODE screen (40_blend R165). -/
  | setmodeScreen
  /-- SETMODE overlay (40_blend R166). -/
  | setmodeOverlay
  /-- SETMODE hard-light (40_blend R167). -/
  | setmodeHardLight
  /-- SETMODE soft-light (40_blend R168). -/
  | setmodeSoftLight
deriving DecidableEq, Repr

/-- The command that selects a named mode (30_encoding R112). -/
def BlendMode.setter : BlendMode → Instr
  | .source => .setmodeSource
  | .destination => .setmodeDestination
  | .clear => .setmodeClear
  | .xor => .setmodeXor
  | .sourceOver => .setmodeSourceOver
  | .sourceIn => .setmodeSourceIn
  | .sourceOut => .setmodeSourceOut
  | .sourceAtop => .setmodeSourceAtop
  | .destinationOver => .setmodeDestinationOver
  | .destinationIn => .setmodeDestinationIn
  | .destinationOut => .setmodeDestinationOut
  | .destinationAtop => .setmodeDestinationAtop
  | .add => .setmodeAdd
  | .subtract => .setmodeSubtract
  | .multiply => .setmodeMultiply
  | .average => .setmodeAverage
  | .screen => .setmodeScreen
  | .overlay => .setmodeOverlay
  | .hardLight => .setmodeHardLight
  | .softLight => .setmodeSoftLight

/-- The mode a named SETMODE row selects, none for every other command (30_encoding R112). -/
def Instr.selects : Instr → Option BlendMode
  | .setmodeSource => some .source
  | .setmodeDestination => some .destination
  | .setmodeClear => some .clear
  | .setmodeXor => some .xor
  | .setmodeSourceOver => some .sourceOver
  | .setmodeSourceIn => some .sourceIn
  | .setmodeSourceOut => some .sourceOut
  | .setmodeSourceAtop => some .sourceAtop
  | .setmodeDestinationOver => some .destinationOver
  | .setmodeDestinationIn => some .destinationIn
  | .setmodeDestinationOut => some .destinationOut
  | .setmodeDestinationAtop => some .destinationAtop
  | .setmodeAdd => some .add
  | .setmodeSubtract => some .subtract
  | .setmodeMultiply => some .multiply
  | .setmodeAverage => some .average
  | .setmodeScreen => some .screen
  | .setmodeOverlay => some .overlay
  | .setmodeHardLight => some .hardLight
  | .setmodeSoftLight => some .softLight
  | .nop => none
  | .setmode _ => none
  | .setga _ => none
  | .setrange _ _ _ => none
  | .setfill _ _ _ _ => none
  | .setfillDa _ _ _ _ => none
  | .blendpx _ _ _ _ _ _ => none
  | .blendpxDa _ _ _ _ _ _ => none
  | .fillrect _ _ _ _ => none
  | .clearrect _ _ _ _ => none
  | .drawimg _ _ _ _ => none
  | .tonemap _ _ _ _ => none
  | .tonemapall => none
  | .readpx _ _ => none
  | .mappx _ _ => none
  | .extract _ _ _ _ => none
  | .rdreg _ => none

end Sys2Proof
end

