-- ==== Sys2Proof/Machine/State.lean ====
section
/-! DEFINITION. The state of the HBK (10_state, 20_memory, 70_reset), its value after reset, and the reasons a step can
stop. -/
namespace Sys2Proof.Machine

/-- Why a step stops. No command raises one: the HBK's own faults are effects of a command (60_exceptions R268). -/
inductive Fault where
  /-- Raised by the host's SURF port when the host names an index the port does not have (20_memory R77: 0 to
  4*W*H - 1). Safe: the spec gives no such access an effect (log 10). -/
  | surfIndex (j : Nat)
deriving DecidableEq, Repr

/-- Why an instruction has no meaning. -/
inductive Refusal where
  /-- Raised by `exec` for an instruction that has no meaning yet. Safe. No arm of `exec` does so. -/
  | notModelled (mnemonic : String)
deriving DecidableEq, Repr

/-- The fields of STATUS (10_state R35 to R37); its other bits are hardwired to 0 and not stored. -/
structure Status where
  fcode : BitVec 4
  halted : Bool
  fop : BitVec 8
deriving DecidableEq, Repr

/-- DSTATE, with the operand words received so far, oldest first, for COLLECTING (10_state R48, 30_encoding R118). -/
inductive DState where
  | idle
  | collecting (hdr : Word) (ops : List Word)
deriving DecidableEq, Repr

/-- A rectangle [x0,x1) x [y0,y1) of pixels that is not EMPTY (00_scope R21), the content of a Present event (R20). -/
structure Rect where
  x0 : Nat
  y0 : Nat
  x1 : Nat
  y1 : Nat
deriving DecidableEq, Repr

/-- A fault of the HBK with its info (60_exceptions R260). -/
inductive FaultInfo where
  | outOfBounds (x y : Word)
  | unknownBlendMode (msel : BitVec 5)
  | degenerateRange (ch : Chan) (low high : Word)
  | badOperand (operands : List Word)
  | illegalCommand (op : BitVec 8)
deriving DecidableEq, Repr

/-- What the host can do to the HBK (10_state R30, 20_memory R77, 70_reset R290; log 7). -/
inductive HostAct where
  /-- Send one word of the command stream (30_encoding R100). -/
  | word (w : Word)
  /-- Write one byte of SURF through the host port (20_memory R77). -/
  | surfWrite (j : Nat) (b : Byte)
  /-- Read one byte of SURF through the host port (20_memory R77). -/
  | surfRead (j : Nat)
  /-- Write one byte of SURF after the header of the command that ends next is sent and before that command has ended:
  the only such write for a command without operand words, and any that falls in a command's execution (20_memory R88,
  70_reset R297; log 8). -/
  | raceWrite (j : Nat) (b : Byte)
  /-- Read one byte of SURF at such a moment (20_memory R88, 70_reset R297; log 8). -/
  | raceRead (j : Nat)
  /-- Take the oldest response word (10_state R50). -/
  | takeResponse
  /-- Take the oldest Present event (10_state R50). -/
  | takePresent
  /-- Apply reset (70_reset R290). -/
  | reset
deriving DecidableEq, Repr

/-- A host access to SURF byte `idx` made after a command's header was sent and before its end, with the free outcomes
R88 gives it should the command's rectangle cover the byte (20_memory R88; log 8). -/
inductive LateAccess where
  /-- A write of `val`; `wins` says whether the byte ends with the host's value or with the HBK's. -/
  | write (idx : Nat) (val : Byte) (wins : Bool)
  /-- A read: `val` is the byte where no command contends for it, `junk` the one it gives where R88 allows any. -/
  | read (idx : Nat) (val junk : Byte)
deriving DecidableEq, Repr

/-- The state of the HBK. -/
structure State where
  /-- W, H, the overlay family and the depths of the streams (00_scope R7, R8, 70_reset R301); no step changes them. -/
  params : Params
  /-- CPOS (10_state R32). -/
  cpos : Nat
  /-- DSTATE (10_state R48). -/
  dstate : DState
  /-- STATUS (10_state R35 to R37). -/
  status : Status
  /-- MODE.SEL (10_state R38): legal by its type. -/
  mode : BlendMode
  /-- GALPHA (10_state R39). -/
  galpha : Word
  /-- RLO0 to RLO3 (10_state R40). -/
  rlo : Quad Word
  /-- RHI0 to RHI3 (10_state R40). -/
  rhi : Quad Word
  /-- FILLR, FILLG, FILLB, FILLA (10_state R42). -/
  fill : Quad Word
  /-- The HDR memory (20_memory R70): the elements that differ from an unlisted one, by rising index (log 13). -/
  hdr : List (Nat × Elem)
  /-- The surface memory (20_memory R75): the bytes that differ from an unlisted one, by rising index. -/
  surf : List Host.Cell
  /-- The response stream, oldest first (10_state R50; log 12). -/
  responses : List Word
  /-- The present port, oldest first (10_state R50; log 12). -/
  presents : List Rect
  /-- The model's record of the first fault's info (60_exceptions R260; log 14); no command reads it. -/
  faultInfo : Option FaultInfo
  /-- The model's own: what the host does next, first to come first (log 7). -/
  host : List HostAct
  /-- The model's own: the bytes the SURF port has returned to the host, oldest first (20_memory R77). -/
  hostReads : List Byte
  /-- The model's own: the host's accesses to SURF that wait for the end of a command, oldest first (20_memory R88;
  log 8). -/
  late : List LateAccess
  /-- The model's own: the number of the next free values (log 3). -/
  draws : Nat
deriving DecidableEq, Repr

/-- The state after reset of an instance with the given parameters and surface contents (70_reset R291). -/
def State.resetOf (p : Params) (surf : List Host.Cell) : State :=
  { params := p
    cpos := 0
    dstate := .idle
    status := { fcode := 0, halted := false, fop := 0 }
    mode := .sourceOver
    galpha := 0x3FF0000000000000
    rlo := { r := 0, g := 0, b := 0, a := 0 }
    rhi := { r := 0x406FE00000000000, g := 0x406FE00000000000, b := 0x406FE00000000000, a := 0x406FE00000000000 }
    fill := { r := 0, g := 0, b := 0, a := 0x406FE00000000000 }
    hdr := []
    surf := surf
    responses := []
    presents := []
    faultInfo := none
    host := []
    hostReads := []
    late := []
    draws := 0 }

/-- The machine right after power-on and reset. DESIGN CHOICE: the instance is 2 pixels by 2 (log 1), SURF_INIT lists no
byte (log 2), and the streams are 64 deep (log 12). PRESUMED: the overlay family is the spec's default (log 5). -/
def State.reset : State :=
  State.resetOf { width := 2, height := 2, bases := .standard, responseDepth := 64, presentDepth := 64 } []

end Sys2Proof.Machine
end

