-- ==== Sys2Proof/Machine/Flags.lean ====
section
/-! DEFINITION. The HBK has no condition codes and no floating-point flags (10_state R33); its only status is the fault
record of STATUS (R35 to R37) and the line that follows it (60_exceptions R272). -/
namespace Sys2Proof.Machine

/-- STATUS.FCODE of a fault (60_exceptions R260). -/
def FaultInfo.code : FaultInfo → BitVec 4
  | .outOfBounds _ _ => 1
  | .unknownBlendMode _ => 2
  | .degenerateRange _ _ _ => 3
  | .badOperand _ => 4
  | .illegalCommand _ => 5

/-- The 64 bits of STATUS: FCODE [3:0], HALTED [8], FOP [23:16], all other bits 0 (10_state R35 to R37). -/
def statusWord (st : Status) : Word :=
  0#40 ++ (st.fop ++ (0#7 ++ (BitVec.ofBool st.halted ++ (0#4 ++ st.fcode))))

/-- The 64 bits of MODE: SEL [4:0], all other bits 0 (10_state R38). -/
def modeWord (m : BlendMode) : Word := 0#59 ++ m.code

/-- The 64 bits of GEOM: W in [31:0], H in [63:32] (10_state R43). -/
def geomWord (p : Params) : Word := BitVec.ofNat 32 p.height ++ BitVec.ofNat 32 p.width

/-- The level of FAULT_IRQ (60_exceptions R272). -/
def State.faultIrq (s : State) : Bool := s.status.halted

end Sys2Proof.Machine
end

