-- ==== Sys2Proof/Machine/Float.lean ====
section
/-! DEFINITION. Binary64 arithmetic and the conversions (00_scope R14 to R17). Every operation computes the exact result
and rounds it once, to nearest, ties to even. DEDUCED from IEEE 754 as R14 names it (log 17). -/
namespace Sys2Proof

/-- The number of units of 2^-1074 in 1. -/
def unit64 : Nat := 2 ^ 1074

/-- 2^1024 in units of 2^-1074: the least magnitude beyond binary64. -/
def beyond64 : Nat := 2 ^ 2098

/-- The units of 2^-1074 in one unit of 2^-149, the least binary32 subnormal. -/
def unit32 : Nat := 2 ^ 925

/-- 2^128 in units of 2^-149: the least magnitude beyond binary32. -/
def beyond32 : Nat := 2 ^ 277

/-! ## Rounding (00_scope R14) -/

/-- The whole number nearest `num / den`, a tie going to the even one. -/
def roundHalfEven (num den : Nat) : Nat :=
  let q := num / den
  let r := num % den
  if 2 * r < den then q else if den < 2 * r then q + 1 else q + q % 2

/-- `num / den` rounded to a number of `p` significant bits that is a whole number (nearest, ties to even). The last
place kept is 2^e, where e is 0 as long as the quotient has at most `p` bits: that is gradual underflow. -/
def roundPlaces (p num den : Nat) : Nat :=
  let e := (num / den).log2 + 1 - p
  roundHalfEven num (den * 2 ^ e) * 2 ^ e

/-- The binary64 value nearest `num / den` units, with the given sign; 2^1024 and more is an infinity. -/
def F64.round (neg : Bool) (num den : Nat) : F64 :=
  let n := roundPlaces 53 num den
  if beyond64 ≤ n then .inf neg else .fin neg n

/-! ## Patterns (00_scope R15) -/

/-- `fromBits64` (00_scope R15). -/
def F64.ofBits (w : Word) : F64 :=
  let neg := w.getLsbD 63
  let e := (w.extractLsb' 52 11).toNat
  let f := (w.extractLsb' 0 52).toNat
  if e = 2047 then (if f = 0 then .inf neg else .nan)
  else if e = 0 then .fin neg f
  else .fin neg ((2 ^ 52 + f) * 2 ^ (e - 1))

/-- The pattern of a magnitude in units of the least subnormal, for `p` significant bits: the exponent field and the
fraction read as one number. -/
def magBits (p n : Nat) : Nat :=
  let e := n.log2 + 1 - p
  e * 2 ^ (p - 1) + n / 2 ^ e

/-- The sign bit. -/
def signBit (neg : Bool) : BitVec 1 := BitVec.ofBool neg

/-- The binary64 NaN of a draw: any NaN (00_scope R10). -/
def nan64 (d : Bool × Fin 4503599627370495) : Word :=
  signBit d.1 ++ (0x7FF#11 ++ BitVec.ofNat 52 (d.2.val + 1))

/-- The binary32 NaN of a draw: any NaN (00_scope R10). -/
def nan32 (d : Bool × Fin 8388607) : Elem :=
  signBit d.1 ++ (0xFF#8 ++ BitVec.ofNat 23 (d.2.val + 1))

/-- `bits64` (00_scope R15), with the pattern a NaN gets. -/
def F64.bits (ifNan : Word) : F64 → Word
  | .nan => ifNan
  | .inf neg => signBit neg ++ 0x7FF0000000000000#63
  | .fin neg n => signBit neg ++ BitVec.ofNat 63 (magBits 53 n)

/-- `f64`: the value of a binary32 pattern, exact (00_scope R15). A NaN's pattern is drawn where it is seen (log 3). -/
def F64.widen (w : Elem) : F64 :=
  let neg := w.getLsbD 31
  let e := (w.extractLsb' 23 8).toNat
  let f := (w.extractLsb' 0 23).toNat
  if e = 255 then (if f = 0 then .inf neg else .nan)
  else if e = 0 then .fin neg (f * unit32)
  else .fin neg ((2 ^ 23 + f) * 2 ^ (e - 1) * unit32)

/-- `f32`: the binary32 pattern nearest a value, ties to even; a value of 2^128 and more after rounding gives the
infinity of its sign (00_scope R15). -/
def F64.narrow (ifNan : Elem) : F64 → Elem
  | .nan => ifNan
  | .inf neg => signBit neg ++ 0x7F800000#31
  | .fin neg n =>
    let m := roundPlaces 24 n unit32
    if beyond32 ≤ m then signBit neg ++ 0x7F800000#31 else signBit neg ++ BitVec.ofNat 31 (magBits 24 m)

/-- The binary64 value of a whole number up to 2^53, exact: the constants of 00_scope R14 and `u8f` of R15. -/
def F64.ofNat (n : Nat) : F64 := .fin false (n * unit64)

/-! ## Arithmetic (00_scope R14) -/

/-- The sign of a value that has one. -/
def F64.isNeg : F64 → Bool
  | .nan => false
  | .inf neg => neg
  | .fin neg _ => neg

/-- A finite value as a signed number of units. -/
def units (neg : Bool) (n : Nat) : Int := if neg then -(n : Int) else (n : Int)

/-- The negated value. -/
def F64.neg : F64 → F64
  | .nan => .nan
  | .inf s => .inf (!s)
  | .fin s n => .fin (!s) n

/-- An exact signed sum of units, rounded; a sum of 0 is -0 only for two negative terms (IEEE 754, 00_scope R14). -/
def F64.ofUnits (zeroNeg : Bool) (i : Int) : F64 :=
  if i = 0 then .fin zeroNeg 0 else F64.round (decide (i < 0)) i.natAbs 1

/-- `+` (00_scope R14). -/
def F64.add : F64 → F64 → F64
  | .nan, _ => .nan
  | _, .nan => .nan
  | .inf s, .inf t => if s = t then .inf s else .nan
  | .inf s, .fin _ _ => .inf s
  | .fin _ _, .inf t => .inf t
  | .fin s m, .fin t n => F64.ofUnits (s && t) (units s m + units t n)

/-- `-` (00_scope R14). -/
def F64.sub (x y : F64) : F64 := x.add y.neg

/-- `*` (00_scope R14). -/
def F64.mul : F64 → F64 → F64
  | .nan, _ => .nan
  | _, .nan => .nan
  | .inf s, .inf t => .inf (s ^^ t)
  | .inf s, .fin t n => if n = 0 then .nan else .inf (s ^^ t)
  | .fin s m, .inf t => if m = 0 then .nan else .inf (s ^^ t)
  | .fin s m, .fin t n => F64.round (s ^^ t) (m * n) unit64

/-- `/` (00_scope R14): 0/0 and inf/inf are NaN, a non-zero value over 0 an infinity. -/
def F64.div : F64 → F64 → F64
  | .nan, _ => .nan
  | _, .nan => .nan
  | .inf _, .inf _ => .nan
  | .inf s, .fin t _ => .inf (s ^^ t)
  | .fin s _, .inf t => .fin (s ^^ t) 0
  | .fin s m, .fin t n =>
    if n = 0 then (if m = 0 then .nan else .inf (s ^^ t)) else F64.round (s ^^ t) (m * unit64) n

/-! ## Comparisons (00_scope R17) and integers (00_scope R16) -/

/-- `a < b` on integers extended with the infinities. -/
def EInt.lt : EInt → EInt → Bool
  | .negInf, .negInf => false
  | .negInf, _ => true
  | .fin _, .negInf => false
  | .fin a, .fin b => decide (a < b)
  | .fin _, .posInf => true
  | .posInf, _ => false

/-- `max` (00_scope R16). -/
def EInt.max (a b : EInt) : EInt := if a.lt b then b else a

/-- `min` (00_scope R16). -/
def EInt.min (a b : EInt) : EInt := if b.lt a then b else a

/-- A value on the line of units, none for NaN. -/
def F64.place : F64 → Option EInt
  | .nan => none
  | .inf neg => some (if neg then .negInf else .posInf)
  | .fin neg n => some (.fin (units neg n))

/-- `<` (00_scope R17). -/
def F64.lt (x y : F64) : Bool :=
  match x.place, y.place with
  | some a, some b => a.lt b
  | _, _ => false

/-- `==` (00_scope R17): +0 equals -0, NaN equals nothing. -/
def F64.eq (x y : F64) : Bool :=
  match x.place, y.place with
  | some a, some b => decide (a = b)
  | _, _ => false

/-- `<=` (00_scope R17). -/
def F64.le (x y : F64) : Bool := x.lt y || x.eq y

/-- `isNaN` (00_scope R16). -/
def F64.isNan : F64 → Bool
  | .nan => true
  | .inf _ => false
  | .fin _ _ => false

/-- `isFinite` (00_scope R16). -/
def F64.isFinite : F64 → Bool
  | .nan => false
  | .inf _ => false
  | .fin _ _ => true

/-- `floor` (00_scope R16); none for NaN, which has none. -/
def F64.floor : F64 → Option EInt
  | .nan => none
  | .inf neg => some (if neg then .negInf else .posInf)
  | .fin neg n => some (.fin (units neg n / (unit64 : Int)))

/-- `ceil` (00_scope R16); none for NaN, which has none. -/
def F64.ceil : F64 → Option EInt
  | .nan => none
  | .inf neg => some (if neg then .negInf else .posInf)
  | .fin neg n => some (.fin (-(-(units neg n) / (unit64 : Int))))

/-- `rnd` (00_scope R16): the whole number n with n - 1/2 <= v < n + 1/2; none where v is not finite. -/
def F64.rnd : F64 → Option Int
  | .nan => none
  | .inf _ => none
  | .fin neg n => some ((2 * units neg n + (unit64 : Int)) / (2 * (unit64 : Int)))

end Sys2Proof
end

