-- ==== Sys2Proof/Machine/Ops.lean ====
section
/-! DEFINITION. The named operations over memories, registers and interfaces (00_scope R18 to R20), fault entry
(60_exceptions R268) and its only exit, reset (70_reset R290). -/
namespace Sys2Proof.Machine

/-! ## Sparse memories

A memory is a list of (index, value) pairs in one form: indices strictly rising, no value equal to `unlisted`. -/

/-- What an unlisted element or byte reads as: +0.0 in the HDR memory (20_memory R74); 0 in SURF, where the spec gives
none (DESIGN CHOICE, unsafe, log 2). -/
def unlisted {n : Nat} : BitVec n := 0#n

/-- The value at an index. -/
def cellRead {n : Nat} : List (Nat × BitVec n) → Nat → BitVec n
  | [], _ => unlisted
  | (a, v) :: rest, i => if i = a then v else cellRead rest i

/-- The memory with the value at one index replaced; writing `unlisted` removes the entry. -/
def cellWrite {n : Nat} : List (Nat × BitVec n) → Nat → BitVec n → List (Nat × BitVec n)
  | [], i, v => if v = unlisted then [] else [(i, v)]
  | (a, u) :: rest, i, v =>
    if i < a then (if v = unlisted then (a, u) :: rest else (i, v) :: (a, u) :: rest)
    else if i = a then (if v = unlisted then rest else (i, v) :: rest)
    else (a, u) :: cellWrite rest i v

/-- The form a memory of `size` indices is held in. -/
abbrev Memory.wf {n : Nat} (size : Nat) (m : List (Nat × BitVec n)) : Prop :=
  m.Pairwise (fun c d => c.1 < d.1) ∧ ∀ c ∈ m, c.2 ≠ unlisted ∧ c.1 < size

/-- The number of HDR elements and of SURF bytes, 4*W*H (20_memory R70, R75). -/
def memSize (p : Params) : Nat := 4 * p.width * p.height

/-- The pixel number p = y*W + x (00_scope R21). -/
def pixelNumber (p : Params) (x y : Nat) : Nat := y * p.width + x

/-- idx(x, y, c) = (y*W + x)*4 + c (20_memory R70). -/
def idx (p : Params) (x y : Nat) (c : Chan) : Nat := pixelNumber p x y * 4 + c.index

/-- MemRead(HDR, i) (00_scope R18). -/
def State.hdrRead (s : State) (i : Nat) : Elem := cellRead s.hdr i

/-- MemWrite(HDR, i, v) (00_scope R18). -/
def State.hdrWrite (s : State) (i : Nat) (v : Elem) : State := { s with hdr := cellWrite s.hdr i v }

/-- MemRead(SURF, j) (00_scope R18). -/
def State.surfRead (s : State) (j : Nat) : Byte := cellRead s.surf j

/-- MemWrite(SURF, j, b) (00_scope R18). -/
def State.surfWrite (s : State) (j : Nat) (b : Byte) : State := { s with surf := cellWrite s.surf j b }

/-- The value of HDR element i: f64 of the stored pattern (00_scope R15). -/
def State.hdrValue (s : State) (i : Nat) : F64 := F64.widen (s.hdrRead i)

/-! ## Registers -/

/-- The 64 bits of a control register (43_config R238, 10_state R34). -/
def State.readReg (s : State) : Reg → Word
  | .status => statusWord s.status
  | .mode => modeWord s.mode
  | .galpha => s.galpha
  | .rlo c => s.rlo.get c
  | .rhi c => s.rhi.get c
  | .fill c => s.fill.get c
  | .geom => geomWord s.params

/-- R[MODE].SEL <- m (43_config R232). -/
def State.setMode (s : State) (m : BlendMode) : State := { s with mode := m }

/-- R[GALPHA] <- w (43_config R233). -/
def State.setGalpha (s : State) (w : Word) : State := { s with galpha := w }

/-- R[RLOc] <- low and R[RHIc] <- high, both in one step (43_config R234). -/
def State.setRange (s : State) (c : Chan) (low high : Word) : State :=
  { s with rlo := s.rlo.set c low, rhi := s.rhi.set c high }

/-- R[FILLR..FILLA] <- colour (43_config R235). -/
def State.setFill (s : State) (q : Quad Word) : State := { s with fill := q }

/-! ## Interfaces (00_scope R20) -/

/-- Respond(w) for each word in turn. -/
def State.respond (s : State) (ws : List Word) : State := { s with responses := s.responses ++ ws }

/-- Present(x0, y0, x1, y1). -/
def State.present (s : State) (r : Rect) : State := { s with presents := s.presents ++ [r] }

/-- Whether the HBK accepts a command word: where the host has left one of the streams full, it does not (70_reset R301;
log 12). -/
def State.ready (s : State) : Bool :=
  decide (s.responses.length < s.params.responseDepth) && decide (s.presents.length < s.params.presentDepth)

/-- Move on to the next free values (log 3). -/
def State.tick (s : State) : State := { s with draws := s.draws + 1 }

/-- bits64 of a value answered at position `k` of a command's responses; a NaN's pattern is the draw NAN64
(00_scope R10, R15; log 3, 4). -/
def State.answer (s : State) (k : Nat) (v : F64) : Word := v.bits (nan64 (Config.nan64Draw s.draws k))

/-- f32 of a value stored at HDR element `i`; a NaN's pattern is the draw NAN32 (00_scope R10, R15; log 3). -/
def State.stored (s : State) (i : Nat) (v : F64) : Elem := v.narrow (nan32 (Config.nan32Draw s.draws i))

/-! ## Host accesses that wait for the end of a command (20_memory R88; log 8) -/

/-- The value of the last of the writes to a byte. -/
def lastWrite : List LateAccess → Nat → Option Byte
  | [], _ => none
  | .write i b _ :: rest, j => (lastWrite rest j).or (if i = j then some b else none)
  | .read _ _ _ :: rest, j => lastWrite rest j

/-- The writes that decide what their bytes hold: of the writes to one byte the last, where the rectangle the command
works on does not cover the byte, or where it does and the host's value wins. -/
def landing (covers : Nat → Bool) : List LateAccess → List (Nat × Byte)
  | [] => []
  | .write i b wins :: rest =>
    if (lastWrite rest i).isNone && (wins || !covers i) then (i, b) :: landing covers rest else landing covers rest
  | .read _ _ _ :: rest => landing covers rest

/-- The bytes the reads give: any byte where the rectangle covers the byte read, the byte itself elsewhere. -/
def returned (covers : Nat → Bool) : List LateAccess → List Byte
  | [] => []
  | .write _ _ _ :: rest => returned covers rest
  | .read i val junk :: rest => (if covers i then junk else val) :: returned covers rest

/-- The waiting accesses settled with a command whose rectangle covers the given bytes. -/
def State.settleWith (s : State) (covers : Nat → Bool) : State :=
  { s with
    surf := (landing covers s.late).foldl (fun m w => cellWrite m w.1 w.2) s.surf
    hostReads := s.hostReads ++ returned covers s.late
    late := [] }

/-- The waiting accesses settled with nothing contending. -/
def State.settleAll (s : State) : State := s.settleWith fun _ => false

/-! ## Faults and reset -/

/-- Fault entry (60_exceptions R268): FCODE, FOP and HALTED are written and nothing else; the model records the info. -/
def State.raise (s : State) (f : FaultInfo) (op : BitVec 8) : State :=
  { s with status := { fcode := f.code, halted := true, fop := op }, faultInfo := some f }

/-- What a command does: its effect, or nothing where the HBK is halted (60_exceptions R270). -/
def State.unlessHalted (s : State) (effect : State → State) : State :=
  if s.status.halted then s else effect s

/-- Reset (70_reset R290, R291): every register, the HDR memory, the decoder and the streams at their reset values;
SURF and the parameters are kept. DESIGN CHOICE: what the host has not had accepted, the bytes its port has returned and
the number of the free values are kept, and the waiting host accesses are settled with nothing contending (log 11). -/
def State.applyReset (s : State) : State :=
  { State.resetOf s.params s.settleAll.surf with host := s.host, hostReads := s.settleAll.hostReads, draws := s.draws }

end Sys2Proof.Machine
end

