-- ==== Sys2Proof/Machine/Operands.lean ====
section
/-! DEFINITION. The operand functions the commands share: PIXCOORD (41_compositor R181), CLIP (R182), the pixels of a
rectangle (R184), the check of a header's alpha (R188). -/
namespace Sys2Proof.Machine

/-- The constant 255 (00_scope R14). -/
def f255 : F64 := F64.ofNat 255

/-- The pattern of 255.0 (30_encoding R121). -/
def word255 : Word := 0x406FE00000000000

/-- The constant 0. -/
def f0 : F64 := F64.ofNat 0

/-- The constant 1. -/
def f1 : F64 := F64.ofNat 1

/-- PIXCOORD (41_compositor R181): the rounded coordinates, or none where it raises OutOfBounds. -/
def pixcoord (p : Params) (x y : Word) : Option (Nat × Nat) :=
  match (F64.ofBits x).rnd, (F64.ofBits y).rnd with
  | some xr, some yr =>
    if xr < 0 ∨ xr ≥ p.width ∨ yr < 0 ∨ yr ≥ p.height then none else some (xr.toNat, yr.toNat)
  | _, _ => none

/-- What CLIP answers (41_compositor R182). -/
inductive Clip where
  /-- It raises BadOperand. -/
  | bad
  | empty
  | rect (r : Rect)
deriving DecidableEq, Repr

/-- [max(0, lo), min(size, hi)) of extended integers, none where it is EMPTY (41_compositor R182). -/
def clipSpan (size : Nat) (lo hi : EInt) : Option (Nat × Nat) :=
  match (EInt.fin 0).max lo, (EInt.fin size).min hi with
  | .fin a, .fin b => if a < b then some (a.toNat, b.toNat) else none
  | _, _ => none

/-- CLIP (41_compositor R182), its tests in its own order. -/
def clip (p : Params) (x y w h : Word) : Clip :=
  let fx := F64.ofBits x
  let fy := F64.ofBits y
  let fw := F64.ofBits w
  let fh := F64.ofBits h
  if fx.isNan || fy.isNan || fw.isNan || fh.isNan then .bad
  else if !(f0.lt fw) || !(f0.lt fh) then .empty
  else
    match fx.floor, (fx.add fw).ceil, fy.floor, (fy.add fh).ceil with
    | some lox, some hix, some loy, some hiy =>
      match clipSpan p.width lox hix, clipSpan p.height loy hiy with
      | some (x0, x1), some (y0, y1) => .rect { x0 := x0, y0 := y0, x1 := x1, y1 := y1 }
      | _, _ => .empty
    | _, _, _, _ => .bad

/-- The pixels of a rectangle in row-major order (41_compositor R184). -/
def Rect.pixels (r : Rect) : List (Nat × Nat) :=
  (List.range' r.y0 (r.y1 - r.y0)).flatMap (fun y => (List.range' r.x0 (r.x1 - r.x0)).map (fun x => (x, y)))

/-- The rectangle of one pixel (41_compositor R187). -/
def pixelRect (x y : Nat) : Rect := { x0 := x, y0 := y, x1 := x + 1, y1 := y + 1 }

/-- The whole buffer (42_tonemap R218), none where it has no pixel. -/
def fullRect (p : Params) : Option Rect :=
  if 0 < p.width ∧ 0 < p.height then some { x0 := 0, y0 := 0, x1 := p.width, y1 := p.height } else none

/-- Whether pixel (x, y) lies in a rectangle (00_scope R21). -/
def Rect.covers (r : Rect) (x y : Nat) : Bool :=
  decide (r.x0 ≤ x) && decide (x < r.x1) && decide (r.y0 ≤ y) && decide (y < r.y1)

/-- Whether an HDR element or SURF byte belongs to a pixel of a rectangle (20_memory R70, R75). -/
def Rect.coversIndex (p : Params) (r : Rect) (i : Nat) : Bool :=
  r.covers ((i / 4) % p.width) ((i / 4) / p.width)

/-- What a command does with a clipped rectangle: BadOperand on bad operands, nothing else on EMPTY unless it says so
(41_compositor R182). -/
def State.withClip (s : State) (op : BitVec 8) (x y w h : Word) (ifEmpty : State → State)
    (onRect : Rect → State → State) : State :=
  match clip s.params x y w h with
  | .bad => s.raise (.badOperand [x, y, w, h]) op
  | .empty => ifEmpty s
  | .rect r => onRect r s

/-- What a command does with a pixel: OutOfBounds where PIXCOORD raises it (41_compositor R181). -/
def State.withPixel (s : State) (op : BitVec 8) (x y : Word) (onPixel : Nat → Nat → State → State) : State :=
  match pixcoord s.params x y with
  | none => s.raise (.outOfBounds x y) op
  | some (xr, yr) => onPixel xr yr s

end Sys2Proof.Machine
end

