-- ==== Sys2Proof/Machine/Blend.lean ====
section
/-! DEFINITION. The blend unit: the twenty component and alpha functions, the mode-selector MUX and the pixel merge
(40_blend_modes). -/
namespace Sys2Proof.Machine

/-! ## Shared helpers (40_blend R148) -/

/-- `1 - v`. -/
def oneMinus (v : F64) : F64 := f1.sub v

/-- WGT(base, d, As, Ad) = (base * As) + ((d * Ad) * (1 - As)) (40_blend R148). -/
def wgt (base d as ad : F64) : F64 := (base.mul as).add ((d.mul ad).mul (oneMinus as))

/-- SOA(As, Ad) = (As + Ad) - (As * Ad) (40_blend R148). -/
def soa (as ad : F64) : F64 := (as.add ad).sub (as.mul ad)

/-! ## The overlay family's bases (00_scope R8, 40_blend R166 to R168) -/

/-- The default body LO(x, d) = ((2 * x) * d) / 255. PRESUMED: the spec's general knowledge (log 5). -/
def defaultLo (x d : F64) : F64 := (((F64.ofNat 2).mul x).mul d).div f255

/-- The default body HI(x, d) = 255 - (((2 * (255 - x)) * (255 - d)) / 255). PRESUMED, as `defaultLo` (log 5). -/
def defaultHi (x d : F64) : F64 := f255.sub ((((F64.ofNat 2).mul (f255.sub x)).mul (f255.sub d)).div f255)

/-- The value of an uninterpreted body at two binary64 values: a binary64 value, whatever the body (00_scope R8). The
bodies do not tell one NaN from another, as no operation of R14 does (log 5). -/
def openBase (body : Word → Word → Word) (s d : F64) : F64 :=
  F64.ofBits (body (s.bits 0x7FF8000000000000) (d.bits 0x7FF8000000000000))

/-- OVL_BASE: OVL_HI where s > 128, else OVL_LO (40_blend R166). -/
def ovlBase (bs : Bases) (s d : F64) : F64 :=
  if (F64.ofNat 128).lt s then
    match bs with
    | .standard => defaultHi s d
    | .other k => openBase (Config.ovlHi k) s d
  else
    match bs with
    | .standard => defaultLo s d
    | .other k => openBase (Config.ovlLo k) s d

/-- HL_BASE: HL_LO where s < 128, else HL_HI (40_blend R167). -/
def hlBase (bs : Bases) (s d : F64) : F64 :=
  if s.lt (F64.ofNat 128) then
    match bs with
    | .standard => defaultLo s d
    | .other k => openBase (Config.hlLo k) s d
  else
    match bs with
    | .standard => defaultHi s d
    | .other k => openBase (Config.hlHi k) s d

/-- t = (s / 2) + 64 (40_blend R168). -/
def slMap (s : F64) : F64 := (s.div (F64.ofNat 2)).add (F64.ofNat 64)

/-- SL_BASE: SL_LO(t, d) where d < 128, else SL_HI(t, d) (40_blend R168). -/
def slBase (bs : Bases) (s d : F64) : F64 :=
  if d.lt (F64.ofNat 128) then
    match bs with
    | .standard => defaultLo (slMap s) d
    | .other k => openBase (Config.slLo k) (slMap s) d
  else
    match bs with
    | .standard => defaultHi (slMap s) d
    | .other k => openBase (Config.slHi k) (slMap s) d

/-! ## The twenty modes (40_blend R149 to R168) -/

/-- COMP_m(s, d, As, Ad): the mode-selector MUX over the component functions (40_blend R140, R141). -/
def comp (bs : Bases) (m : BlendMode) (s d as ad : F64) : F64 :=
  match m with
  | .source => s.mul as
  | .destination => d.mul ad
  | .clear => f0
  | .xor => ((s.mul as).mul (oneMinus ad)).add ((d.mul ad).mul (oneMinus as))
  | .sourceOver => (s.mul as).add ((d.mul ad).mul (oneMinus as))
  | .sourceIn => (s.mul as).mul ad
  | .sourceOut => (s.mul as).mul (oneMinus ad)
  | .sourceAtop => ((s.mul as).mul ad).add ((d.mul ad).mul (oneMinus as))
  | .destinationOver => (d.mul ad).add ((s.mul as).mul (oneMinus ad))
  | .destinationIn => (d.mul ad).mul as
  | .destinationOut => (d.mul ad).mul (oneMinus as)
  | .destinationAtop => ((d.mul ad).mul as).add ((s.mul as).mul (oneMinus ad))
  | .add => (d.mul ad).add (s.mul as)
  | .subtract => (d.mul ad).sub (s.mul as)
  | .multiply => wgt ((s.mul d).div f255) d as ad
  | .average => wgt ((s.add d).div (F64.ofNat 2)) d as ad
  | .screen => wgt (f255.sub (((f255.sub s).mul (f255.sub d)).div f255)) d as ad
  | .overlay => wgt (ovlBase bs s d) d as ad
  | .hardLight => wgt (hlBase bs s d) d as ad
  | .softLight => wgt (slBase bs s d) d as ad

/-- ALPHA_m(As, Ad) (40_blend R149 to R168). -/
def alpha (m : BlendMode) (as ad : F64) : F64 :=
  match m with
  | .source => as
  | .destination => ad
  | .clear => f0
  | .xor => (as.add ad).sub (((F64.ofNat 2).mul as).mul ad)
  | .sourceOver => soa as ad
  | .sourceIn => as.mul ad
  | .sourceOut => as.mul (oneMinus ad)
  | .sourceAtop => ad
  | .destinationOver => soa as ad
  | .destinationIn => as.mul ad
  | .destinationOut => ad.mul (oneMinus as)
  | .destinationAtop => as
  | .add => soa as ad
  | .subtract => soa as ad
  | .multiply => soa as ad
  | .average => soa as ad
  | .screen => soa as ad
  | .overlay => soa as ad
  | .hardLight => soa as ad
  | .softLight => soa as ad

/-! ## The merge (40_blend R142 to R145) -/

/-- As = (sA * GALPHA) / 255 (40_blend R143). -/
def srcAlpha (s : State) (sA : F64) : F64 := (sA.mul (F64.ofBits s.galpha)).div f255

/-- Ad = f64(stored A) / 255 (40_blend R144). -/
def dstAlpha (s : State) (p : Nat) : F64 := (s.hdrValue (4 * p + 3)).div f255

/-- The four values a merge of the source colour into pixel `p` computes, before they are stored (40_blend R142). -/
def mergeValues (s : State) (p : Nat) (src : Quad F64) : Quad F64 :=
  let as := srcAlpha s src.a
  let ad := dstAlpha s p
  let n (sc : F64) (c : Nat) : F64 := comp s.params.bases s.mode sc (s.hdrValue (4 * p + c)) as ad
  { r := n src.r 0, g := n src.g 1, b := n src.b 2, a := (alpha s.mode as ad).mul f255 }

/-- Four values stored into the elements of pixel `p`, each converted once (40_blend R145). -/
def State.storePixel (s : State) (p : Nat) (v : Quad F64) : State :=
  (((s.hdrWrite (4 * p + 0) (s.stored (4 * p + 0) v.r)).hdrWrite (4 * p + 1) (s.stored (4 * p + 1) v.g)).hdrWrite
    (4 * p + 2) (s.stored (4 * p + 2) v.b)).hdrWrite (4 * p + 3) (s.stored (4 * p + 3) v.a)

/-- MERGE(p, sR, sG, sB, sA): all reads before all writes (40_blend R142). -/
def State.merge (s : State) (p : Nat) (src : Quad F64) : State := s.storePixel p (mergeValues s p src)

/-- The merge of every pixel of a list, each with its own source colour (41_compositor R189, R191). -/
def State.mergeAll (s : State) (src : Nat × Nat → Quad F64) (pixels : List (Nat × Nat)) : State :=
  pixels.foldl (fun t q => t.merge (pixelNumber t.params q.1 q.2) (src q)) s

end Sys2Proof.Machine
end

