-- ==== Sys2Proof/WellFormed.lean ====
section
/-! DEFINITION. Which instructions the decoder can give. Every operand is a full word (30_encoding R108), every channel
and register a constructor, so one check is left: the SETMODE row's own words. -/
namespace Sys2Proof

/-- The MSEL values 20 to 31 select no mode (30_encoding R113). -/
abbrev mselUnknown (msel : BitVec 5) : Prop := 20 ≤ msel.toNat

/-- A `setmode` with a selector of a named mode is a second spelling of that mode's own row, which the decoder gives in
its place (log 9); everything else is well formed. -/
def Instr.wellFormed : Instr → Bool
  | .setmode msel => decide (mselUnknown msel)
  | .nop | .setga _ | .setrange _ _ _ | .setfill _ _ _ _ | .setfillDa _ _ _ _ | .blendpx _ _ _ _ _ _
  | .blendpxDa _ _ _ _ _ _ | .fillrect _ _ _ _ | .clearrect _ _ _ _ | .drawimg _ _ _ _ | .tonemap _ _ _ _
  | .tonemapall | .readpx _ _ | .mappx _ _ | .extract _ _ _ _ | .rdreg _
  | .setmodeSource | .setmodeDestination | .setmodeClear | .setmodeXor | .setmodeSourceOver | .setmodeSourceIn
  | .setmodeSourceOut | .setmodeSourceAtop | .setmodeDestinationOver | .setmodeDestinationIn | .setmodeDestinationOut
  | .setmodeDestinationAtop | .setmodeAdd | .setmodeSubtract | .setmodeMultiply | .setmodeAverage | .setmodeScreen
  | .setmodeOverlay | .setmodeHardLight | .setmodeSoftLight => true

/-- The check as a proposition. -/
abbrev Instr.WellFormed (i : Instr) : Prop := i.wellFormed = true

end Sys2Proof
end

