-- ==== Sys2Proof/Decode.lean ====
section
/-! DEFINITION. The decoder and the encoder of command packets (30_encoding), the byte order of a word on a byte-wide
transport (20_memory R80). -/
namespace Sys2Proof

/-! ## Header fields (30_encoding R101) -/

/-- OP, header bits [7:0] (30_encoding R102). -/
def hdrOp (hdr : Word) : BitVec 8 := hdr.extractLsb' 0 8
/-- MSEL, header bits [12:8] (30_encoding R103). -/
def hdrMsel (hdr : Word) : BitVec 5 := hdr.extractLsb' 8 5
/-- CH, header bits [14:13] (30_encoding R104). -/
def hdrCh (hdr : Word) : BitVec 2 := hdr.extractLsb' 13 2
/-- DA, header bit [15] (30_encoding R105). -/
def hdrDa (hdr : Word) : BitVec 1 := hdr.extractLsb' 15 1
/-- RIDX, header bits [20:16] (30_encoding R106). -/
def hdrRidx (hdr : Word) : BitVec 5 := hdr.extractLsb' 16 5
/-- Header bits [63:21], reserved (30_encoding R107). -/
def hdrReserved (hdr : Word) : BitVec 43 := hdr.extractLsb' 21 43

/-- A header word of the five fields, bits [63:21] zero (30_encoding R101). -/
def mkHeader (op : BitVec 8) (msel : BitVec 5) (ch : BitVec 2) (da : BitVec 1) (ridx : BitVec 5) : Word :=
  0#43 ++ (ridx ++ (da ++ (ch ++ (msel ++ op))))

/-! ## The opcode map (30_encoding R110) -/

/-- The commands by opcode. -/
inductive OpName where
  | nop | setmode | setga | setrange | setfill
  | blendpx | fillrect | clearrect | drawimg
  | tonemap | tonemapall
  | readpx | mappx | extract | rdreg
deriving DecidableEq, Repr

/-- The OP value of a command (30_encoding R110). -/
def OpName.code : OpName → BitVec 8
  | .nop => 0x00
  | .setmode => 0x01
  | .setga => 0x02
  | .setrange => 0x03
  | .setfill => 0x04
  | .blendpx => 0x10
  | .fillrect => 0x11
  | .clearrect => 0x12
  | .drawimg => 0x13
  | .tonemap => 0x20
  | .tonemapall => 0x21
  | .readpx => 0x30
  | .mappx => 0x31
  | .extract => 0x32
  | .rdreg => 0x3F

/-- The commands in opcode order. -/
def OpName.all : List OpName :=
  [.nop, .setmode, .setga, .setrange, .setfill, .blendpx, .fillrect, .clearrect, .drawimg, .tonemap, .tonemapall,
   .readpx, .mappx, .extract, .rdreg]

/-- The command an OP value selects, none for the values 30_encoding R110 does not list. -/
def opOfCode (op : BitVec 8) : Option OpName := OpName.all.find? (fun n => n.code == op)

/-- N, the number of operand words (30_encoding R110). -/
def OpName.operands : OpName → Nat
  | .nop => 0
  | .setmode => 0
  | .setga => 1
  | .setrange => 2
  | .setfill => 4
  | .blendpx => 6
  | .fillrect => 4
  | .clearrect => 4
  | .drawimg => 4
  | .tonemap => 4
  | .tonemapall => 0
  | .readpx => 2
  | .mappx => 2
  | .extract => 4
  | .rdreg => 0

/-- N(OP) for framing: 0 for an OP that is not listed (30_encoding R111). -/
def operandCount (op : BitVec 8) : Nat :=
  match opOfCode op with
  | some n => n.operands
  | none => 0

/-- The header fields a command uses (30_encoding R101, last column). -/
structure FieldUse where
  msel : Bool := false
  ch : Bool := false
  da : Bool := false
  ridx : Bool := false
deriving DecidableEq, Repr

/-- Which fields each command uses (30_encoding R101, R110). -/
def OpName.fields : OpName → FieldUse
  | .setmode => { msel := true }
  | .setrange => { ch := true }
  | .setfill => { da := true }
  | .blendpx => { da := true }
  | .rdreg => { ridx := true }
  | .nop | .setga | .fillrect | .clearrect | .drawimg | .tonemap | .tonemapall | .readpx | .mappx | .extract => {}

/-- Every field the command does not use is 0 (30_encoding R107). -/
def unusedFieldsZero (n : OpName) (hdr : Word) : Bool :=
  let u := n.fields
  (u.msel || hdrMsel hdr == 0) && (u.ch || hdrCh hdr == 0) && (u.da || hdrDa hdr == 0) && (u.ridx || hdrRidx hdr == 0)

/-! ## The decoder -/

/-- Why a packet is no command: the four grounds of 30_encoding R114, and a list of words that is no packet of its
header's length (R100), which the framing of R111 never makes. -/
inductive DecodeError where
  /-- OP is not in 30_encoding R110. -/
  | unknownOp
  /-- One of the bits [63:21] is 1. -/
  | reservedBits
  /-- A field the command does not use is not 0. -/
  | unusedField
  /-- RDREG with RIDX 16 to 31. -/
  | reservedIndex
  /-- Not exactly N(OP) operand words. -/
  | wrongLength
deriving DecidableEq, Repr

/-- The channel of a CH field (30_encoding R104). -/
def chanOfBits (ch : BitVec 2) : Chan :=
  match ch.toNat with
  | 0 => .r
  | 1 => .g
  | 2 => .b
  | _ => .a

/-- The CH field of a channel (30_encoding R104). -/
def bitsOfChan : Chan → BitVec 2
  | .r => 0
  | .g => 1
  | .b => 2
  | .a => 3

/-- The registers in index order (10_state R34). -/
def Reg.all : List Reg :=
  [.status, .mode, .galpha, .rlo .r, .rlo .g, .rlo .b, .rlo .a, .rhi .r, .rhi .g, .rhi .b, .rhi .a,
   .fill .r, .fill .g, .fill .b, .fill .a, .geom]

/-- The register of a RIDX field, none for the reserved values 16 to 31 (30_encoding R106). -/
def regOfIndex (ridx : BitVec 5) : Option Reg := Reg.all.find? (fun r => r.index == ridx)

/-- The mode of an MSEL value, none for 20 to 31 (30_encoding R112, R113). -/
def modeOfCode (msel : BitVec 5) : Option BlendMode := BlendMode.all.find? (fun m => m.code == msel)

/-- SETMODE's instruction for an MSEL value: the named row where there is one, else the SETMODE row (log 9). -/
def setmodeOf (msel : BitVec 5) : Instr :=
  match modeOfCode msel with
  | some m => m.setter
  | none => .setmode msel

/-- An instruction with no operand word. -/
def take0 (i : Instr) : List Word → Except DecodeError Instr
  | [] => .ok i
  | _ :: _ => .error .wrongLength

/-- An instruction with one operand word. -/
def take1 (f : Word → Instr) : List Word → Except DecodeError Instr
  | [u] => .ok (f u)
  | _ => .error .wrongLength

/-- An instruction with two operand words. -/
def take2 (f : Word → Word → Instr) : List Word → Except DecodeError Instr
  | [u, v] => .ok (f u v)
  | _ => .error .wrongLength

/-- An instruction with four operand words. -/
def take4 (f : Word → Word → Word → Word → Instr) : List Word → Except DecodeError Instr
  | [u, v, w, x] => .ok (f u v w x)
  | _ => .error .wrongLength

/-- An instruction with six operand words. -/
def take6 (f : Word → Word → Word → Word → Word → Word → Instr) : List Word → Except DecodeError Instr
  | [u, v, w, x, y, z] => .ok (f u v w x y z)
  | _ => .error .wrongLength

/-- An RDREG of an index (30_encoding R106, R114). -/
def takeReg (ridx : BitVec 5) (ops : List Word) : Except DecodeError Instr :=
  match regOfIndex ridx with
  | some r => take0 (.rdreg r) ops
  | none => .error .reservedIndex

/-- The instruction of a legal header's command and its operand words (30_encoding R110). -/
def buildInstr (n : OpName) (hdr : Word) (ops : List Word) : Except DecodeError Instr :=
  match n with
  | .nop => take0 .nop ops
  | .setmode => take0 (setmodeOf (hdrMsel hdr)) ops
  | .setga => take1 .setga ops
  | .setrange => take2 (.setrange (chanOfBits (hdrCh hdr))) ops
  | .setfill => take4 (if hdrDa hdr = 1 then .setfillDa else .setfill) ops
  | .blendpx => take6 (if hdrDa hdr = 1 then .blendpxDa else .blendpx) ops
  | .fillrect => take4 .fillrect ops
  | .clearrect => take4 .clearrect ops
  | .drawimg => take4 .drawimg ops
  | .tonemap => take4 .tonemap ops
  | .tonemapall => take0 .tonemapall ops
  | .readpx => take2 .readpx ops
  | .mappx => take2 .mappx ops
  | .extract => take4 .extract ops
  | .rdreg => takeReg (hdrRidx hdr) ops

/-- The decoder, on a header and the operand words that follow it (30_encoding R114, R118). -/
def decodePacket (hdr : Word) (ops : List Word) : Except DecodeError Instr :=
  match opOfCode (hdrOp hdr) with
  | none => .error .unknownOp
  | some n =>
    if hdrReserved hdr ≠ 0 then .error .reservedBits
    else if unusedFieldsZero n hdr = false then .error .unusedField
    else buildInstr n hdr ops

/-- The decoder on a list of words (30_encoding R100). -/
def decode : List Word → Except DecodeError Instr
  | [] => .error .wrongLength
  | hdr :: ops => decodePacket hdr ops

/-! ## The encoder -/

/-- The header of a command that uses no header field. -/
def plainHeader (n : OpName) : Word := mkHeader n.code 0 0 0 0

/-- The header of a SETMODE (43_config R232). -/
def setmodeHeader (msel : BitVec 5) : Word := mkHeader OpName.setmode.code msel 0 0 0

/-- The packet of an instruction: its header and its operand words (30_encoding R100, R101, R110, R112). -/
def encode : Instr → List Word
  | .nop => [plainHeader .nop]
  | .setmode msel => [setmodeHeader msel]
  | .setga ga => [plainHeader .setga, ga]
  | .setrange ch low high => [mkHeader OpName.setrange.code 0 (bitsOfChan ch) 0 0, low, high]
  | .setfill r g b a => [plainHeader .setfill, r, g, b, a]
  | .setfillDa r g b a => [mkHeader OpName.setfill.code 0 0 1 0, r, g, b, a]
  | .blendpx x y r g b a => [plainHeader .blendpx, x, y, r, g, b, a]
  | .blendpxDa x y r g b a => [mkHeader OpName.blendpx.code 0 0 1 0, x, y, r, g, b, a]
  | .fillrect x y w h => [plainHeader .fillrect, x, y, w, h]
  | .clearrect x y w h => [plainHeader .clearrect, x, y, w, h]
  | .drawimg dx dy dw dh => [plainHeader .drawimg, dx, dy, dw, dh]
  | .tonemap x y w h => [plainHeader .tonemap, x, y, w, h]
  | .tonemapall => [plainHeader .tonemapall]
  | .readpx x y => [plainHeader .readpx, x, y]
  | .mappx x y => [plainHeader .mappx, x, y]
  | .extract x y w h => [plainHeader .extract, x, y, w, h]
  | .rdreg reg => [mkHeader OpName.rdreg.code 0 0 0 reg.index]
  | .setmodeSource => [setmodeHeader 0]
  | .setmodeDestination => [setmodeHeader 1]
  | .setmodeClear => [setmodeHeader 2]
  | .setmodeXor => [setmodeHeader 3]
  | .setmodeSourceOver => [setmodeHeader 4]
  | .setmodeSourceIn => [setmodeHeader 5]
  | .setmodeSourceOut => [setmodeHeader 6]
  | .setmodeSourceAtop => [setmodeHeader 7]
  | .setmodeDestinationOver => [setmodeHeader 8]
  | .setmodeDestinationIn => [setmodeHeader 9]
  | .setmodeDestinationOut => [setmodeHeader 10]
  | .setmodeDestinationAtop => [setmodeHeader 11]
  | .setmodeAdd => [setmodeHeader 12]
  | .setmodeSubtract => [setmodeHeader 13]
  | .setmodeMultiply => [setmodeHeader 14]
  | .setmodeAverage => [setmodeHeader 15]
  | .setmodeScreen => [setmodeHeader 16]
  | .setmodeOverlay => [setmodeHeader 17]
  | .setmodeHardLight => [setmodeHeader 18]
  | .setmodeSoftLight => [setmodeHeader 19]

/-- The opcode of an instruction's header (30_encoding R110). -/
def Instr.opName : Instr → OpName
  | .nop => .nop
  | .setga _ => .setga
  | .setrange _ _ _ => .setrange
  | .setfill _ _ _ _ => .setfill
  | .setfillDa _ _ _ _ => .setfill
  | .blendpx _ _ _ _ _ _ => .blendpx
  | .blendpxDa _ _ _ _ _ _ => .blendpx
  | .fillrect _ _ _ _ => .fillrect
  | .clearrect _ _ _ _ => .clearrect
  | .drawimg _ _ _ _ => .drawimg
  | .tonemap _ _ _ _ => .tonemap
  | .tonemapall => .tonemapall
  | .readpx _ _ => .readpx
  | .mappx _ _ => .mappx
  | .extract _ _ _ _ => .extract
  | .rdreg _ => .rdreg
  | .setmode _ => .setmode
  | .setmodeSource => .setmode
  | .setmodeDestination => .setmode
  | .setmodeClear => .setmode
  | .setmodeXor => .setmode
  | .setmodeSourceOver => .setmode
  | .setmodeSourceIn => .setmode
  | .setmodeSourceOut => .setmode
  | .setmodeSourceAtop => .setmode
  | .setmodeDestinationOver => .setmode
  | .setmodeDestinationIn => .setmode
  | .setmodeDestinationOut => .setmode
  | .setmodeDestinationAtop => .setmode
  | .setmodeAdd => .setmode
  | .setmodeSubtract => .setmode
  | .setmodeMultiply => .setmode
  | .setmodeAverage => .setmode
  | .setmodeScreen => .setmode
  | .setmodeOverlay => .setmode
  | .setmodeHardLight => .setmode
  | .setmodeSoftLight => .setmode

/-! ## Words as bytes (20_memory R80) -/

/-- Byte k of a word's transfer is word bits [8k+7:8k] (20_memory R80). -/
def wordByte (w : Word) (k : Nat) : Byte := w.extractLsb' (8 * k) 8

/-- The eight bytes of a word, in transfer order (20_memory R80). -/
def wordBytes (w : Word) : List Byte := (List.range 8).map (wordByte w)

/-- The word of eight bytes in transfer order (20_memory R80). -/
def wordOfBytes (b0 b1 b2 b3 b4 b5 b6 b7 : Byte) : Word :=
  b7 ++ (b6 ++ (b5 ++ (b4 ++ (b3 ++ (b2 ++ (b1 ++ b0))))))

/-- The words of a byte transfer, none where a last word is not whole (20_memory R80, R81). -/
def wordsOfBytes : List Byte → Option (List Word)
  | [] => some []
  | b0 :: b1 :: b2 :: b3 :: b4 :: b5 :: b6 :: b7 :: rest =>
    (wordsOfBytes rest).map (wordOfBytes b0 b1 b2 b3 b4 b5 b6 b7 :: ·)
  | _ => none

/-- The decoder on the bytes of a packet (20_memory R80, 30_encoding R100). -/
def decodeBytes (bs : List Byte) : Except DecodeError Instr :=
  match wordsOfBytes bs with
  | some ws => decode ws
  | none => .error .wrongLength

/-! ## The table's words -/

/-- The words of an instruction whose bits are `w`, the first word in the lowest 64 bits, cut or filled with zero words
to its packet's length 1 + N(OP) (30_encoding R100). -/
def tableWords (nbits w : Nat) : List Word :=
  let given := (List.range (max 1 ((nbits + 63) / 64))).map (fun k => BitVec.ofNat 64 (w >>> (64 * k)))
  let len := 1 + operandCount (hdrOp (BitVec.ofNat 64 w))
  given.take len ++ List.replicate (len - given.length) 0

/-- The instruction the decoder reads from an instruction whose bits are `w`. -/
def decodeTableWord (nbits w : Nat) : Option Instr :=
  match decode (tableWords nbits w) with
  | .ok i => some i
  | .error _ => none

end Sys2Proof
end

