-- ==== Sys2Proof/Machine/ToneMap.lean ====
section
/-! DEFINITION. The tone-map unit and its commands: the range-mapper, the quantizer, TMRECT, TONEMAP, TONEMAPALL, MAPPX
(42_tonemap). -/
namespace Sys2Proof.Machine

/-! ## The datapath -/

/-- MAP(c, h) = ((h - RLOc) / (RHIc - RLOc)) * 255 (42_tonemap R211), unclamped (R212). -/
def mapChan (s : State) (c : Chan) (h : F64) : F64 :=
  let low := F64.ofBits (s.rlo.get c)
  let high := F64.ofBits (s.rhi.get c)
  ((h.sub low).div (high.sub low)).mul f255

/-- Q(v): 0 for NaN and for v <= 0, 255 for v >= 255, else the nearest whole number, a tie going to the even one
(42_tonemap R213). PRESUMED: the spec's general knowledge (log 16). -/
def quantize (v : F64) : Byte :=
  match v with
  | .nan => 0
  | .inf neg => if neg then 0 else 255
  | .fin neg n =>
    if (F64.fin neg n).le f0 then 0
    else if f255.le (.fin neg n) then 255
    else BitVec.ofNat 8 (roundHalfEven n unit64)

/-- The byte TMPIX writes for channel c of pixel (x, y) (42_tonemap R214). -/
def toneByte (s : State) (x y : Nat) (c : Chan) : Byte := quantize (mapChan s c (s.hdrValue (idx s.params x y c)))

/-- TMPIX(x, y) (42_tonemap R214). -/
def State.tonePixel (s : State) (x y : Nat) : State :=
  Chan.all.foldl (fun t c => t.surfWrite (idx t.params x y c) (toneByte t x y c)) s

/-- TMPIX of every pixel of a list (42_tonemap R215). -/
def State.toneAll (s : State) (pixels : List (Nat × Nat)) : State :=
  pixels.foldl (fun t q => t.tonePixel q.1 q.2) s

/-- TMRECT of a rectangle that is not EMPTY: its pixels, then one Present event (42_tonemap R215, R216). -/
def State.toneRect (s : State) (r : Rect) : State := (s.toneAll r.pixels).present r

/-! ## The commands -/

/-- TONEMAP (42_tonemap R217). -/
def execTonemap (x y w h : Word) (s : State) : Host.Outcome State Fault Refusal :=
  .next (s.unlessHalted fun t => t.withClip OpName.tonemap.code x y w h id fun r u => u.toneRect r)

/-- TONEMAPALL (42_tonemap R218). -/
def execTonemapall (s : State) : Host.Outcome State Fault Refusal :=
  .next (s.unlessHalted fun t =>
    match fullRect t.params with
    | some r => t.toneRect r
    | none => t)

/-- The four words MAPPX responds: MAP of each channel, unclamped and unquantized (42_tonemap R219). -/
def mapWords (s : State) (x y : Nat) : List Word :=
  Chan.all.map fun c => s.answer c.index (mapChan s c (s.hdrValue (idx s.params x y c)))

/-- MAPPX (42_tonemap R219). -/
def execMappx (x y : Word) (s : State) : Host.Outcome State Fault Refusal :=
  .next (s.unlessHalted fun t => t.withPixel OpName.mappx.code x y fun xr yr u => (u.respond (mapWords u xr yr)).tick)

end Sys2Proof.Machine
end

