-- ==== Sys2Proof/Machine/Compositor.lean ====
section
/-! DEFINITION. The compositor commands BLENDPX, FILLRECT, CLEARRECT, DRAWIMG (41_compositor R187 to R192), each ending
with the tone-map of what it touched (R186). -/
namespace Sys2Proof.Machine

/-- BLENDPX on a pixel: the merge, then the pixel's tone-map (41_compositor R187). -/
def State.blendPixel (s : State) (src : Quad F64) (x y : Nat) : State :=
  ((s.merge (pixelNumber s.params x y) src).toneRect (pixelRect x y)).tick

/-- A rectangle's merges, then its tone-map (41_compositor R189, R191). -/
def State.blendRect (s : State) (src : Nat × Nat → Quad F64) (r : Rect) : State :=
  ((s.mergeAll src r.pixels).toneRect r).tick

/-- +0.0 into the four elements of a pixel (41_compositor R190). -/
def State.clearPixel (s : State) (x y : Nat) : State :=
  Chan.all.foldl (fun t c => t.hdrWrite (idx t.params x y c) 0) s

/-- +0.0 into every element of a list of pixels (41_compositor R190). -/
def State.clearAll (s : State) (pixels : List (Nat × Nat)) : State :=
  pixels.foldl (fun t q => t.clearPixel q.1 q.2) s

/-- The source colour SURF holds at a pixel's place: u8f of its four bytes (41_compositor R191, R192). -/
def surfPixel (s : State) (q : Nat × Nat) : Quad F64 :=
  let u (c : Chan) : F64 := F64.ofNat (s.surfRead (idx s.params q.1 q.2 c)).toNat
  { r := u .r, g := u .g, b := u .b, a := u .a }

/-- BLENDPX (41_compositor R187). -/
def execBlendpx (x y r g b a : Word) (s : State) : Host.Outcome State Fault Refusal :=
  .next (s.unlessHalted fun t => t.withPixel OpName.blendpx.code x y fun xr yr u =>
    u.blendPixel (Quad.map F64.ofBits { r := r, g := g, b := b, a := a }) xr yr)

/-- BLENDPX with DA = 1: alpha 255, the alpha word ignored (41_compositor R187, R188). -/
def execBlendpxDa (x y r g b : Word) (s : State) : Host.Outcome State Fault Refusal :=
  .next (s.unlessHalted fun t => t.withPixel OpName.blendpx.code x y fun xr yr u =>
    u.blendPixel { r := F64.ofBits r, g := F64.ofBits g, b := F64.ofBits b, a := f255 } xr yr)

/-- FILLRECT (41_compositor R189). -/
def execFillrect (x y w h : Word) (s : State) : Host.Outcome State Fault Refusal :=
  .next (s.unlessHalted fun t => t.withClip OpName.fillrect.code x y w h id fun r u =>
    u.blendRect (fun _ => u.fill.map F64.ofBits) r)

/-- CLEARRECT (41_compositor R190). -/
def execClearrect (x y w h : Word) (s : State) : Host.Outcome State Fault Refusal :=
  .next (s.unlessHalted fun t => t.withClip OpName.clearrect.code x y w h id fun r u =>
    (u.clearAll r.pixels).toneRect r)

/-- DRAWIMG (41_compositor R191). -/
def execDrawimg (dx dy dw dh : Word) (s : State) : Host.Outcome State Fault Refusal :=
  .next (s.unlessHalted fun t => t.withClip OpName.drawimg.code dx dy dw dh id fun r u =>
    u.blendRect (surfPixel u) r)

end Sys2Proof.Machine
end

