-- ==== Sys2Proof/Machine/Configure.lean ====
section
/-! DEFINITION. The configuration commands NOP, SETMODE, SETGA, SETRANGE, SETFILL (43_config R231 to R235). -/
namespace Sys2Proof.Machine

/-- NOP: no effect, halted or not (43_config R231, 60_exceptions R270). -/
def execNop (s : State) : Host.Outcome State Fault Refusal := .next s

/-- What SETMODE does with an MSEL value (43_config R232, 30_encoding R113). -/
def State.selectMode (s : State) (msel : BitVec 5) : State :=
  match modeOfCode msel with
  | some m => s.setMode m
  | none => s.raise (.unknownBlendMode msel) OpName.setmode.code

/-- SETMODE with its selector (43_config R232). -/
def execSetmode (msel : BitVec 5) (s : State) : Host.Outcome State Fault Refusal :=
  .next (s.unlessHalted fun t => t.selectMode msel)

/-- SETGA's test: isNaN(ga) or ga < 0 or ga > 1 (43_config R233). -/
def badGalpha (ga : Word) : Bool :=
  let v := F64.ofBits ga
  v.isNan || v.lt f0 || f1.lt v

/-- SETGA (43_config R233). -/
def execSetga (ga : Word) (s : State) : Host.Outcome State Fault Refusal :=
  .next (s.unlessHalted fun t =>
    if badGalpha ga then t.raise (.badOperand [ga]) OpName.setga.code else t.setGalpha ga)

/-- SETRANGE's test: high == low, IEEE equality (43_config R234). -/
def badRange (low high : Word) : Bool := (F64.ofBits high).eq (F64.ofBits low)

/-- SETRANGE (43_config R234). -/
def execSetrange (ch : Chan) (low high : Word) (s : State) : Host.Outcome State Fault Refusal :=
  .next (s.unlessHalted fun t =>
    if badRange low high then t.raise (.degenerateRange ch low high) OpName.setrange.code else t.setRange ch low high)

/-- SETFILL (43_config R235). -/
def execSetfill (r g b a : Word) (s : State) : Host.Outcome State Fault Refusal :=
  .next (s.unlessHalted fun t => t.setFill { r := r, g := g, b := b, a := a })

/-- SETFILL with DA = 1: alpha 255.0, the alpha word ignored (43_config R235, 41_compositor R188). -/
def execSetfillDa (r g b : Word) (s : State) : Host.Outcome State Fault Refusal :=
  .next (s.unlessHalted fun t => t.setFill { r := r, g := g, b := b, a := word255 })

end Sys2Proof.Machine
end

