-- ==== Sys2Proof/Machine/ModeSelect.lean ====
section
/-! DEFINITION. SETMODE of a named mode, one meaning for each row of 30_encoding R112: MODE.SEL <- the row's selector
(43_config R232), unless the HBK is halted (60_exceptions R270). -/
namespace Sys2Proof.Machine

/-- SETMODE of a mode whose selector is legal (43_config R232). -/
def State.chooseMode (s : State) (m : BlendMode) : State := s.unlessHalted fun t => t.setMode m

/-- SETMODE source (43_config R232, 40_blend R149). -/
def execSetmodeSource (s : State) : Host.Outcome State Fault Refusal := .next (s.chooseMode .source)

/-- SETMODE destination (43_config R232, 40_blend R150). -/
def execSetmodeDestination (s : State) : Host.Outcome State Fault Refusal := .next (s.chooseMode .destination)

/-- SETMODE clear (43_config R232, 40_blend R151). -/
def execSetmodeClear (s : State) : Host.Outcome State Fault Refusal := .next (s.chooseMode .clear)

/-- SETMODE xor (43_config R232, 40_blend R152). -/
def execSetmodeXor (s : State) : Host.Outcome State Fault Refusal := .next (s.chooseMode .xor)

/-- SETMODE source-over (43_config R232, 40_blend R153). -/
def execSetmodeSourceOver (s : State) : Host.Outcome State Fault Refusal := .next (s.chooseMode .sourceOver)

/-- SETMODE source-in (43_config R232, 40_blend R154). -/
def execSetmodeSourceIn (s : State) : Host.Outcome State Fault Refusal := .next (s.chooseMode .sourceIn)

/-- SETMODE source-out (43_config R232, 40_blend R155). -/
def execSetmodeSourceOut (s : State) : Host.Outcome State Fault Refusal := .next (s.chooseMode .sourceOut)

/-- SETMODE source-atop (43_config R232, 40_blend R156). -/
def execSetmodeSourceAtop (s : State) : Host.Outcome State Fault Refusal := .next (s.chooseMode .sourceAtop)

/-- SETMODE destination-over (43_config R232, 40_blend R157). -/
def execSetmodeDestinationOver (s : State) : Host.Outcome State Fault Refusal := .next (s.chooseMode .destinationOver)

/-- SETMODE destination-in (43_config R232, 40_blend R158). -/
def execSetmodeDestinationIn (s : State) : Host.Outcome State Fault Refusal := .next (s.chooseMode .destinationIn)

/-- SETMODE destination-out (43_config R232, 40_blend R159). -/
def execSetmodeDestinationOut (s : State) : Host.Outcome State Fault Refusal := .next (s.chooseMode .destinationOut)

/-- SETMODE destination-atop (43_config R232, 40_blend R160). -/
def execSetmodeDestinationAtop (s : State) : Host.Outcome State Fault Refusal := .next (s.chooseMode .destinationAtop)

/-- SETMODE add (43_config R232, 40_blend R161). -/
def execSetmodeAdd (s : State) : Host.Outcome State Fault Refusal := .next (s.chooseMode .add)

/-- SETMODE subtract (43_config R232, 40_blend R162). -/
def execSetmodeSubtract (s : State) : Host.Outcome State Fault Refusal := .next (s.chooseMode .subtract)

/-- SETMODE multiply (43_config R232, 40_blend R163). -/
def execSetmodeMultiply (s : State) : Host.Outcome State Fault Refusal := .next (s.chooseMode .multiply)

/-- SETMODE average (43_config R232, 40_blend R164). -/
def execSetmodeAverage (s : State) : Host.Outcome State Fault Refusal := .next (s.chooseMode .average)

/-- SETMODE screen (43_config R232, 40_blend R165). -/
def execSetmodeScreen (s : State) : Host.Outcome State Fault Refusal := .next (s.chooseMode .screen)

/-- SETMODE overlay (43_config R232, 40_blend R166). -/
def execSetmodeOverlay (s : State) : Host.Outcome State Fault Refusal := .next (s.chooseMode .overlay)

/-- SETMODE hard-light (43_config R232, 40_blend R167). -/
def execSetmodeHardLight (s : State) : Host.Outcome State Fault Refusal := .next (s.chooseMode .hardLight)

/-- SETMODE soft-light (43_config R232, 40_blend R168). -/
def execSetmodeSoftLight (s : State) : Host.Outcome State Fault Refusal := .next (s.chooseMode .softLight)

end Sys2Proof.Machine
end

