-- ==== Sys2Proof/Machine/Readback.lean ====
section
/-! DEFINITION. The read-back commands READPX, EXTRACT, RDREG (43_config R236 to R238). -/
namespace Sys2Proof.Machine

/-- The four elements of a pixel as response words, the first at position `k` of the command's responses
(43_config R236, R237). -/
def pixelWords (s : State) (k x y : Nat) : List Word :=
  Chan.all.map fun c => s.answer (k + c.index) (s.hdrValue (idx s.params x y c))

/-- READPX (43_config R236). -/
def execReadpx (x y : Word) (s : State) : Host.Outcome State Fault Refusal :=
  .next (s.unlessHalted fun t => t.withPixel OpName.readpx.code x y fun xr yr u =>
    (u.respond (pixelWords u 0 xr yr)).tick)

/-- EXTRACT's first word: zext(w') | (zext(h') << 32) (43_config R237). -/
def sizeWord (r : Rect) : Word := BitVec.ofNat 64 (r.x1 - r.x0) ||| (BitVec.ofNat 64 (r.y1 - r.y0) <<< 32)

/-- The words EXTRACT responds for a rectangle: its size, then its elements row by row (43_config R237). The response
position of a pixel's first element is one more than four times the pixels before it. -/
def extractWords (s : State) (r : Rect) : List Word :=
  sizeWord r :: r.pixels.zipIdx.flatMap fun q => pixelWords s (1 + 4 * q.2) q.1.1 q.1.2

/-- EXTRACT (43_config R237). -/
def execExtract (x y w h : Word) (s : State) : Host.Outcome State Fault Refusal :=
  .next (s.unlessHalted fun t => t.withClip OpName.extract.code x y w h (fun u => u.respond [0]) fun r u =>
    (u.respond (extractWords u r)).tick)

/-- RDREG, halted or not (43_config R238, 60_exceptions R270). -/
def execRdreg (reg : Reg) (s : State) : Host.Outcome State Fault Refusal := .next (s.respond [s.readReg reg])

end Sys2Proof.Machine
end

