-- ==== Sys2Proof/Machine/Dispatch.lean ====
section
/-! DEFINITION. The meaning of every instruction, one arm each. -/
namespace Sys2Proof.Machine

def exec (i : Instr) (s : State) : Host.Outcome State Fault Refusal :=
  match i with
  | .nop => Sys2Proof.Machine.execNop s
  | .setmode msel => Sys2Proof.Machine.execSetmode msel s
  | .setga ga => Sys2Proof.Machine.execSetga ga s
  | .setrange ch low high => Sys2Proof.Machine.execSetrange ch low high s
  | .setfill r g b a => Sys2Proof.Machine.execSetfill r g b a s
  | .setfillDa r g b _ => Sys2Proof.Machine.execSetfillDa r g b s
  | .blendpx x y r g b a => Sys2Proof.Machine.execBlendpx x y r g b a s
  | .blendpxDa x y r g b _ => Sys2Proof.Machine.execBlendpxDa x y r g b s
  | .fillrect x y w h => Sys2Proof.Machine.execFillrect x y w h s
  | .clearrect x y w h => Sys2Proof.Machine.execClearrect x y w h s
  | .drawimg dx dy dw dh => Sys2Proof.Machine.execDrawimg dx dy dw dh s
  | .tonemap x y w h => Sys2Proof.Machine.execTonemap x y w h s
  | .tonemapall => Sys2Proof.Machine.execTonemapall s
  | .readpx x y => Sys2Proof.Machine.execReadpx x y s
  | .mappx x y => Sys2Proof.Machine.execMappx x y s
  | .extract x y w h => Sys2Proof.Machine.execExtract x y w h s
  | .rdreg reg => Sys2Proof.Machine.execRdreg reg s
  | .setmodeSource => Sys2Proof.Machine.execSetmodeSource s
  | .setmodeDestination => Sys2Proof.Machine.execSetmodeDestination s
  | .setmodeClear => Sys2Proof.Machine.execSetmodeClear s
  | .setmodeXor => Sys2Proof.Machine.execSetmodeXor s
  | .setmodeSourceOver => Sys2Proof.Machine.execSetmodeSourceOver s
  | .setmodeSourceIn => Sys2Proof.Machine.execSetmodeSourceIn s
  | .setmodeSourceOut => Sys2Proof.Machine.execSetmodeSourceOut s
  | .setmodeSourceAtop => Sys2Proof.Machine.execSetmodeSourceAtop s
  | .setmodeDestinationOver => Sys2Proof.Machine.execSetmodeDestinationOver s
  | .setmodeDestinationIn => Sys2Proof.Machine.execSetmodeDestinationIn s
  | .setmodeDestinationOut => Sys2Proof.Machine.execSetmodeDestinationOut s
  | .setmodeDestinationAtop => Sys2Proof.Machine.execSetmodeDestinationAtop s
  | .setmodeAdd => Sys2Proof.Machine.execSetmodeAdd s
  | .setmodeSubtract => Sys2Proof.Machine.execSetmodeSubtract s
  | .setmodeMultiply => Sys2Proof.Machine.execSetmodeMultiply s
  | .setmodeAverage => Sys2Proof.Machine.execSetmodeAverage s
  | .setmodeScreen => Sys2Proof.Machine.execSetmodeScreen s
  | .setmodeOverlay => Sys2Proof.Machine.execSetmodeOverlay s
  | .setmodeHardLight => Sys2Proof.Machine.execSetmodeHardLight s
  | .setmodeSoftLight => Sys2Proof.Machine.execSetmodeSoftLight s

end Sys2Proof.Machine
end

