-- ==== Sys2Proof/Machine/HostPort.lean ====
section
/-! DEFINITION. What the host does to the HBK besides sending commands (10_state R30, R50; 20_memory R77, R87, R88;
70_reset R290, R297). -/
namespace Sys2Proof.Machine

/-! ## The rectangle a command works on -/

/-- The rectangle of a CLIP that is one. -/
def Clip.rect? : Clip → Option Rect
  | .rect r => some r
  | .bad => none
  | .empty => none

/-- The rectangle whose SURF bytes an instruction reads or writes in a state: none where it touches no SURF byte, or
faults, or is discarded (41_compositor R186, 42_tonemap R217, R218, 60_exceptions R270). -/
def touchedRect (i : Instr) (s : State) : Option Rect :=
  if s.status.halted then none
  else
    match i with
    | .blendpx x y _ _ _ _ => (pixcoord s.params x y).map fun q => pixelRect q.1 q.2
    | .blendpxDa x y _ _ _ _ => (pixcoord s.params x y).map fun q => pixelRect q.1 q.2
    | .fillrect x y w h => (clip s.params x y w h).rect?
    | .clearrect x y w h => (clip s.params x y w h).rect?
    | .drawimg x y w h => (clip s.params x y w h).rect?
    | .tonemap x y w h => (clip s.params x y w h).rect?
    | .tonemapall => fullRect s.params
    | .nop | .setmode _ | .setga _ | .setrange _ _ _ | .setfill _ _ _ _ | .setfillDa _ _ _ _ | .readpx _ _
    | .mappx _ _ | .extract _ _ _ _ | .rdreg _
    | .setmodeSource | .setmodeDestination | .setmodeClear | .setmodeXor | .setmodeSourceOver | .setmodeSourceIn
    | .setmodeSourceOut | .setmodeSourceAtop | .setmodeDestinationOver | .setmodeDestinationIn
    | .setmodeDestinationOut | .setmodeDestinationAtop | .setmodeAdd | .setmodeSubtract | .setmodeMultiply
    | .setmodeAverage | .setmodeScreen | .setmodeOverlay | .setmodeHardLight | .setmodeSoftLight => none

/-- Whether a command with operand words uses SURF (70_reset R297). -/
def usesSurf (hdr : Word) : Bool :=
  match opOfCode (hdrOp hdr) with
  | some .blendpx | some .fillrect | some .clearrect | some .drawimg | some .tonemap | some .tonemapall => true
  | some .nop | some .setmode | some .setga | some .setrange | some .setfill | some .readpx | some .mappx
  | some .extract | some .rdreg | none => false

/-- Whether an access to SURF waits for the end of a command: the header of one that uses SURF has been taken, or an
access made after a header was sent waits already (70_reset R297; log 8). -/
def State.surfBusy (s : State) : Bool :=
  !s.late.isEmpty ||
    match s.dstate with
    | .idle => false
    | .collecting hdr _ => !s.status.halted && usesSurf hdr

/-- The waiting host accesses settled at the end of a command that worked on the given rectangle (20_memory R88;
log 8). -/
def State.settle (s : State) (touched : Option Rect) : State :=
  s.settleWith fun j => touched.any fun r => r.coversIndex s.params j

/-! ## The SURF port -/

/-- A host access left waiting for the end of the command (log 8). -/
def State.queueLate (s : State) (a : LateAccess) : State := { s with late := s.late ++ [a] }

/-- A byte returned by the port (20_memory R77). -/
def State.giveByte (s : State) (b : Byte) : State := { s with hostReads := s.hostReads ++ [b] }

/-- A host write of a SURF byte made after a command's header was sent: the command sees it or not, and it waits to be
settled at the command's end (20_memory R88; log 8). -/
def State.lateWrite (s : State) (j : Nat) (b : Byte) : State :=
  let t := if Config.raceSeen s.draws then s.surfWrite j b else s
  (t.queueLate (.write j b (Config.raceWins s.draws))).tick

/-- A host read of a SURF byte made after a command's header was sent: it waits to be settled at the command's end, when
it is known whether the command's rectangle covers the byte (20_memory R88; log 8). -/
def State.lateRead (s : State) (j : Nat) : State :=
  (s.queueLate (.read j ((lastWrite s.late j).getD (s.surfRead j)) (Config.raceByte s.draws))).tick

/-- A host write of a SURF byte that exists (20_memory R77, R87, R88). -/
def State.hostSurfWrite (s : State) (j : Nat) (b : Byte) : State :=
  if s.surfBusy then s.lateWrite j b else s.surfWrite j b

/-- A host read of a SURF byte that exists (20_memory R77, R88). -/
def State.hostSurfRead (s : State) (j : Nat) : State :=
  if s.surfBusy then s.lateRead j else s.giveByte (s.surfRead j)

/-- The host takes the oldest response word (10_state R50); nothing happens where there is none. -/
def State.takeResponse (s : State) : State := { s with responses := s.responses.tail }

/-- The host takes the oldest Present event (10_state R50); nothing happens where there is none. -/
def State.takePresent (s : State) : State := { s with presents := s.presents.tail }

/-- One byte of SURF reached by the host: the port has the indices 0 to 4*W*H - 1 (20_memory R77; log 10). -/
def State.atSurf (s : State) (j : Nat) (effect : State → State) : Host.Outcome State Fault Refusal :=
  if j < memSize s.params then .next (effect s) else .fault (.surfIndex j)

end Sys2Proof.Machine
end

