-- ==== Sys2Proof/Machine/Sequencer.lean ====
section
/-! DEFINITION. The command decoder's work on the stream: framing words into packets, executing a packet, and doing what
the host does next (30_encoding R111, R118; 60_exceptions R266, R270). -/
namespace Sys2Proof.Machine

/-- The decoder takes one word: the state after it, and the header and operand words of the packet it completes, if it
completes one (30_encoding R118; N is 0 for an illegal OP, R111). -/
def State.accept (s : State) (w : Word) : State × Option (Word × List Word) :=
  match s.dstate with
  | .idle =>
    if operandCount (hdrOp w) = 0 then ({ s with cpos := s.cpos + 1 }, some (w, []))
    else ({ s with cpos := s.cpos + 1, dstate := .collecting w [] }, none)
  | .collecting hdr ops =>
    if ops.length + 1 = operandCount (hdrOp hdr) then
      ({ s with cpos := s.cpos + 1, dstate := .idle }, some (hdr, ops ++ [w]))
    else ({ s with cpos := s.cpos + 1, dstate := .collecting hdr (ops ++ [w]) }, none)

/-- An illegal packet: IllegalCommand, or nothing where the HBK is halted (30_encoding R118, 60_exceptions R266, R270). -/
def State.illegal (s : State) (hdr : Word) : State :=
  s.unlessHalted fun t => t.raise (.illegalCommand (hdrOp hdr)) (hdrOp hdr)

/-- Execute(hdr, ops) (30_encoding R118); the host's waiting SURF accesses are settled at the end (20_memory R88; log 8). -/
def execute (hdr : Word) (ops : List Word) (s : State) : Host.Outcome State Fault Refusal :=
  match decodePacket hdr ops with
  | .error _ => .next ((s.illegal hdr).settle none)
  | .ok i =>
    match exec i s with
    | .next t => .next (t.settle (touchedRect i s))
    | .fault f => .fault f
    | .refused r => .refused r

/-- What the host does next, up to the end of one command or one other action: words are taken until one completes a
packet, which is executed as one atomic step (00_scope R6; log 6). With nothing left the state is held (60_exceptions
R279); with a stream full, a word waits to be accepted (70_reset R301; log 12). -/
def runHost : List HostAct → State → Host.Outcome State Fault Refusal
  | [], s => .next { s with host := [] }
  | act :: rest, s =>
    match act with
    | .word w =>
      if s.ready then
        match ({ s with host := rest } : State).accept w with
        | (t, none) => runHost rest t
        | (t, some (hdr, ops)) => execute hdr ops t
      else .next { s with host := .word w :: rest }
    | .surfWrite j b => ({ s with host := rest } : State).atSurf j fun t => t.hostSurfWrite j b
    | .surfRead j => ({ s with host := rest } : State).atSurf j fun t => t.hostSurfRead j
    | .raceWrite j b => ({ s with host := rest } : State).atSurf j fun t => t.lateWrite j b
    | .raceRead j => ({ s with host := rest } : State).atSurf j fun t => t.lateRead j
    | .takeResponse => .next ({ s with host := rest } : State).takeResponse
    | .takePresent => .next ({ s with host := rest } : State).takePresent
    | .reset => .next ({ s with host := rest } : State).applyReset

/-- The state with an instruction's words next in the command stream, the decoder ready for a header. -/
def State.loadWords (s : State) (ws : List Word) : State :=
  { s with dstate := .idle, host := ws.map .word ++ s.host }

/-- The state with its streams deep enough for what waits in them and one more. -/
def State.makeRoom (s : State) : State :=
  { s with params := { s.params with
      responseDepth := max s.params.responseDepth (s.responses.length + 1)
      presentDepth := max s.params.presentDepth (s.presents.length + 1) } }

end Sys2Proof.Machine
end

