-- ==== Sys2Proof/Machine/Step.lean ====
section
/-! DEFINITION. One step: what the host does next, up to the end of one command (log 6). -/
namespace Sys2Proof.Machine

/-- One step of the HBK and its host. -/
def step (s : State) : Host.Outcome State Fault Refusal := runHost s.host s

/-- The state with an instruction's packet at the head of the command stream, the decoder at IDLE and room in the
streams: the next step takes exactly that packet. The bits above `nbits` are 0, up to the packet's length (30_encoding
R100). -/
def State.withFetchWord (s : State) (nbits w : Nat) : State := s.makeRoom.loadWords (tableWords nbits w)

end Sys2Proof.Machine
end

