-- ==== Sys2Proof/Machine/Assembler.lean ====
section
/-! DEFINITION. The assembler's lines and pseudo-instructions (30_encoding R119, R120): what instructions a line stands
for, from its words and from its text. -/
namespace Sys2Proof.Machine

/-- A float literal (30_encoding R119): the decimal `digits * 10^exp` with its sign, an infinity, or the `nan` at operand
place `k`. -/
inductive Literal where
  | dec (neg : Bool) (digits : Nat) (exp : Int)
  | inf (neg : Bool)
  | nan (k : Nat)
deriving DecidableEq, Repr

/-- The operand word of a literal: the binary64 value nearest it, ties to even (30_encoding R119). DESIGN CHOICE: R119
leaves the pattern of `nan` open, and the model gives the literal at operand place `k` a free pattern of its own, the
same in every line (log 15). -/
def Literal.word : Literal → Word
  | .dec neg digits exp =>
    (F64.round neg (digits * 10 ^ exp.toNat * unit64) (10 ^ (-exp).toNat)).bits 0
  | .inf neg => (F64.inf neg).bits 0
  | .nan k => nan64 (Config.nanLiteral k)

/-- An operand of a line: a float literal, or a name of a mode, a channel or a register (30_encoding R119). -/
inductive AsmOperand where
  | lit (l : Literal)
  | name (n : String)
deriving DecidableEq, Repr

/-- The text names of the modes (30_encoding R112). -/
def modeOfName (n : String) : Option BlendMode :=
  (["source", "destination", "clear", "xor", "source-over", "source-in", "source-out", "source-atop",
    "destination-over", "destination-in", "destination-out", "destination-atop", "add", "subtract", "multiply",
    "average", "screen", "overlay", "hard-light", "soft-light"].zip BlendMode.all).lookup n

/-- The channel letters (30_encoding R119). -/
def chanOfName (n : String) : Option Chan := (["r", "g", "b", "a"].zip Chan.all).lookup n

/-- The register names (10_state R34). -/
def regOfName (n : String) : Option Reg :=
  (["STATUS", "MODE", "GALPHA", "RLO0", "RLO1", "RLO2", "RLO3", "RHI0", "RHI1", "RHI2", "RHI3", "FILLR", "FILLG",
    "FILLB", "FILLA", "GEOM"].zip Reg.all).lookup n

/-- The binary64 pattern of a whole number. -/
def natWord (n : Nat) : Word := (F64.ofNat n).bits 0

/-- The words of operands that are all literals. -/
def literalWords : List AsmOperand → Option (List Word)
  | [] => some []
  | .lit l :: rest => (literalWords rest).map (l.word :: ·)
  | .name _ :: _ => none

/-- A command whose operands are all literals (30_encoding R119); the suffix `.da` drops the alpha operand and sends 0.0
for it. -/
def assembleLiterals (mnemonic : String) (da : Bool) (ops : List Word) : Option Instr :=
  match mnemonic, da, ops with
  | "NOP", false, [] => some .nop
  | "SETGA", false, [ga] => some (.setga ga)
  | "SETFILL", false, [r, g, b, a] => some (.setfill r g b a)
  | "SETFILL", true, [r, g, b] => some (.setfillDa r g b 0)
  | "BLENDPX", false, [x, y, r, g, b, a] => some (.blendpx x y r g b a)
  | "BLENDPX", true, [x, y, r, g, b] => some (.blendpxDa x y r g b 0)
  | "FILLRECT", false, [x, y, w, h] => some (.fillrect x y w h)
  | "CLEARRECT", false, [x, y, w, h] => some (.clearrect x y w h)
  | "DRAWIMG", false, [x, y, w, h] => some (.drawimg x y w h)
  | "TONEMAP", false, [x, y, w, h] => some (.tonemap x y w h)
  | "TONEMAPALL", false, [] => some .tonemapall
  | "READPX", false, [x, y] => some (.readpx x y)
  | "MAPPX", false, [x, y] => some (.mappx x y)
  | "EXTRACT", false, [x, y, w, h] => some (.extract x y w h)
  | _, _, _ => none

/-- The commands a pseudo-instruction expands to on an instance (30_encoding R120). -/
def assemblePseudo (p : Params) (mnemonic : String) (ops : List Word) : Option (List Instr) :=
  match mnemonic, ops with
  | "SETPIXEL", [x, y, r, g, b, a] => some [.blendpx x y r g b a]
  | "SETPIXEL", [x, y, r, g, b] => some [.blendpxDa x y r g b 0]
  | "GETPIXEL", [x, y] => some [.readpx x y]
  | "INVALIDATE", [] => some [.tonemapall]
  | "INVALIDATE", [x, y, w, h] => some [.tonemap x y w h]
  | "CLEARALL", [] => some [.clearrect 0 0 (natWord p.width) (natWord p.height)]
  | "SETRANGEALL", [low, high] => some (Chan.all.map fun c => .setrange c low high)
  | "SETFILL", [r, g, b] => some [.setfillDa r g b 0]
  | "RDSTATUS", [] => some [.rdreg .status]
  | _, _ => none

/-- The source's names of operations, accepted for the mnemonics of R110's last column and R120 (30_encoding R120;
log 15). -/
def mnemonicOf (name : String) : String :=
  match name with
  | "setPixel" => "SETPIXEL"
  | "getPixel" => "GETPIXEL"
  | "fillRect" => "FILLRECT"
  | "clearRect" => "CLEARRECT"
  | "drawImage" => "DRAWIMG"
  | "extractRegion" => "EXTRACT"
  | "invalidate" => "INVALIDATE"
  | _ => name

/-- The commands of one line (30_encoding R119, R120), none for a line that is no command. -/
def assemble (p : Params) (mnemonic : String) (da : Bool) (ops : List AsmOperand) : Option (List Instr) :=
  match mnemonic, da, ops with
  | "SETMODE", false, [.name n] => (modeOfName n).map fun m => [m.setter]
  | "SETRANGE", false, [.name n, .lit low, .lit high] => (chanOfName n).map fun c => [.setrange c low.word high.word]
  | "RDREG", false, [.name n] => (regOfName n).map fun r => [.rdreg r]
  | _, _, _ =>
    match literalWords ops with
    | none => none
    | some ws =>
      match assembleLiterals mnemonic da ws with
      | some i => some [i]
      | none => if da then none else assemblePseudo p mnemonic ws

/-! ## The text of a line (30_encoding R119; the grammar of a decimal is the model's, log 15) -/

/-- The value of a decimal digit. -/
def digitOf (c : Char) : Option Nat := if '0' ≤ c ∧ c ≤ '9' then some (c.toNat - '0'.toNat) else none

/-- The digits at the head of a text, appended to the number `v`: the number, how many there were, and what follows. -/
def takeDigits : List Char → Nat → Nat → Nat × Nat × List Char
  | [], v, n => (v, n, [])
  | c :: cs, v, n =>
    match digitOf c with
    | some d => takeDigits cs (10 * v + d) (n + 1)
    | none => (v, n, c :: cs)

/-- A whole text that is digits: their number. -/
def digitsOnly (cs : List Char) : Option Nat :=
  match takeDigits cs 0 0 with
  | (v, n, []) => if n = 0 then none else some v
  | (_, _, _ :: _) => none

/-- An exponent with its sign. -/
def parseExponent : List Char → Option Int
  | '-' :: cs => (digitsOnly cs).map fun n => -(n : Int)
  | '+' :: cs => (digitsOnly cs).map fun n => (n : Int)
  | cs => (digitsOnly cs).map fun n => (n : Int)

/-- A decimal without its sign: digits, a point and digits, an exponent; the last two may be absent. -/
def parseDecimal (neg : Bool) (cs : List Char) : Option Literal :=
  let whole := takeDigits cs 0 0
  let frac :=
    match whole.2.2 with
    | '.' :: rest => takeDigits rest whole.1 0
    | rest => (whole.1, 0, rest)
  if whole.2.1 + frac.2.1 = 0 then none
  else
    match frac.2.2 with
    | [] => some (.dec neg frac.1 (-(frac.2.1 : Int)))
    | 'e' :: rest => (parseExponent rest).map fun e => .dec neg frac.1 (e - frac.2.1)
    | _ :: _ => none

/-- A literal without its sign. -/
def parseUnsigned (neg : Bool) (cs : List Char) : Option Literal :=
  if cs = "inf".toList then some (.inf neg) else parseDecimal neg cs

/-- A float literal: a decimal, `inf`, `-inf` or `nan`; `k` is the literal's operand place (log 15). -/
def parseLiteral (k : Nat) (cs : List Char) : Option Literal :=
  if cs = "nan".toList then some (.nan k)
  else
    match cs with
    | '-' :: rest => parseUnsigned true rest
    | _ => parseUnsigned false cs

/-- Whether a character separates words. -/
def isBlank (c : Char) : Bool := c = ' ' || c = '\t'

/-- A text without the blanks at its ends. -/
def trimBlanks (cs : List Char) : List Char := ((cs.dropWhile isBlank).reverse.dropWhile isBlank).reverse

/-- A text cut at its commas. -/
def splitCommas : List Char → List (List Char)
  | [] => [[]]
  | c :: cs =>
    match splitCommas cs with
    | [] => [[c]]
    | head :: rest => if c = ',' then [] :: head :: rest else (c :: head) :: rest

/-- The operands of a line's text, none of them for a blank one. -/
def parseOperands (cs : List Char) : List AsmOperand :=
  if trimBlanks cs = [] then []
  else
    (splitCommas cs).zipIdx.map fun q =>
      match parseLiteral q.2 (trimBlanks q.1) with
      | some l => .lit l
      | none => .name (String.ofList (trimBlanks q.1))

/-- The commands of one line of text: a mnemonic, `.da` or not, and operands between commas, up to a `;`; no command for
a blank line; none where the text is no line of the assembler's (30_encoding R119, R120). -/
def assembleLine (p : Params) (line : String) : Option (List Instr) :=
  let cs := trimBlanks (line.toList.takeWhile fun c => c ≠ ';')
  if cs = [] then some []
  else
    let word := cs.takeWhile fun c => !isBlank c
    let name := word.takeWhile fun c => c ≠ '.'
    let suffix := word.dropWhile fun c => c ≠ '.'
    if suffix = [] then assemble p (mnemonicOf (String.ofList name)) false (parseOperands (cs.drop word.length))
    else if suffix = ".da".toList then
      assemble p (mnemonicOf (String.ofList name)) true (parseOperands (cs.drop word.length))
    else none

end Sys2Proof.Machine
end

