-- ==== Sys2Proof/Safety.lean ====
section
/-! DEFINITION. What counts as a sound state, in the terms the statements use: the invariants the spec gives the state
(10_state R35 to R41, R48; 00_scope R7) and the form of the model's memories. -/
namespace Sys2Proof.Machine

/-- 10_state R39: the legal values of GALPHA are the binary64 values v with 0 <= v <= 1. -/
def galphaLegal (w : Word) : Bool := f0.le (F64.ofBits w) && (F64.ofBits w).le f1

/-- 10_state R41: not (RHIc == RLOc) for every channel. -/
abbrev rangesLegal (s : State) : Prop := ∀ c ∈ Chan.all, badRange (s.rlo.get c) (s.rhi.get c) = false

/-- 10_state R35 to R37: FCODE is 0 to 5; HALTED = 1 exactly when FCODE is not 0; with no fault FOP is 0. The model
records an info exactly when there was a fault. -/
abbrev statusLegal (s : State) : Prop :=
  s.status.fcode.toNat ≤ 5 ∧ (s.status.halted = true ↔ s.status.fcode ≠ 0) ∧
    (s.status.halted = false → s.status.fop = 0) ∧ (s.status.halted = true ↔ s.faultInfo ≠ none)

/-- 10_state R48: 0 <= k < N(OP) for COLLECTING(hdr, k). -/
def dstateLegal : DState → Bool
  | .idle => true
  | .collecting hdr ops => decide (ops.length < operandCount (hdrOp hdr))

/-- The byte a waiting access is to. -/
def LateAccess.idx : LateAccess → Nat
  | .write i _ _ => i
  | .read i _ _ => i

/-- Both memories in their form, and every waiting host access at an index that exists. -/
abbrev memoriesLegal (s : State) : Prop :=
  Memory.wf (memSize s.params) s.hdr ∧ Memory.wf (memSize s.params) s.surf ∧ ∀ a ∈ s.late, a.idx < memSize s.params

/-- What holds of the HBK at every point after reset. -/
structure State.Inv (s : State) : Prop where
  params : s.params.legal
  galpha : galphaLegal s.galpha = true
  ranges : rangesLegal s
  status : statusLegal s
  dstate : dstateLegal s.dstate = true
  memories : memoriesLegal s

end Sys2Proof.Machine
end

