-- ==== Sys2Proof/Certificates/Slice0/Obligations.lean ====
section
/-! DEFINITION. The statements for the provers. Names under Sys2Proof.Claims are the words the statements use; each
`def Obligations.<Name> : Prop` is one statement, its docstring names the rules of spec/ it rests on. -/
namespace Sys2Proof.Claims

open Sys2Proof.Machine

/-- `n` is the whole number with n - 1/2 <= v < n + 1/2 (00_scope R16), in units of 2^-1074. -/
def Nearest (v : F64) (n : Nat) : Prop :=
  ∃ neg m, v = .fin neg m ∧ (2 * (n : Int) - 1) * unit64 ≤ 2 * units neg m ∧
    2 * units neg m < (2 * (n : Int) + 1) * unit64

/-- `w` is a response word for the value `v`: its pattern, or any NaN for a NaN (00_scope R10, R15). -/
def Answers (v : F64) (w : Word) : Prop := if v.isNan then F64.ofBits w = .nan else w = v.bits 0

/-- `e` is a stored element for the value `v`: its nearest binary32 pattern, or any NaN for a NaN (00_scope R10, R15). -/
def Stores (v : F64) (e : Elem) : Prop := if v.isNan then F64.widen e = .nan else e = v.narrow 0

/-- Pixel (px, py) of the buffer meets the real rectangle [x, x+w) x [y, y+h) (41_compositor R182, R183). -/
def Meets (p : Params) (x y w h : Word) (px py : Nat) : Prop :=
  f0.lt (F64.ofBits w) = true ∧ f0.lt (F64.ofBits h) = true ∧ px < p.width ∧ py < p.height ∧
    (F64.ofBits x).lt (F64.ofNat (px + 1)) = true ∧ (F64.ofNat px).lt ((F64.ofBits x).add (F64.ofBits w)) = true ∧
    (F64.ofBits y).lt (F64.ofNat (py + 1)) = true ∧ (F64.ofNat py).lt ((F64.ofBits y).add (F64.ofBits h)) = true

/-- The tests on which CLIP raises BadOperand (41_compositor R182). -/
def NanRect (x y w h : Word) : Prop :=
  (F64.ofBits x = .nan ∨ F64.ofBits y = .nan ∨ F64.ofBits w = .nan ∨ F64.ofBits h = .nan) ∨
    (f0.lt (F64.ofBits w) = true ∧ f0.lt (F64.ofBits h) = true ∧
      ((F64.ofBits x).add (F64.ofBits w) = .nan ∨ (F64.ofBits y).add (F64.ofBits h) = .nan))

/-- The value a merge computes for channel c of pixel p from source colour (sR, sG, sB, sA), in the state before the
command (40_blend R142 to R145). -/
def MergeValue (s : State) (p : Nat) (src : Quad F64) (c : Chan) : F64 :=
  let as := (src.a.mul (F64.ofBits s.galpha)).div (F64.ofNat 255)
  let ad := (F64.widen (s.hdrRead (4 * p + 3))).div (F64.ofNat 255)
  match c with
  | .r => comp s.params.bases s.mode src.r (F64.widen (s.hdrRead (4 * p))) as ad
  | .g => comp s.params.bases s.mode src.g (F64.widen (s.hdrRead (4 * p + 1))) as ad
  | .b => comp s.params.bases s.mode src.b (F64.widen (s.hdrRead (4 * p + 2))) as ad
  | .a => (alpha s.mode as ad).mul (F64.ofNat 255)

/-- MAP(c, h) for a stored element (42_tonemap R211). -/
def MapValue (s : State) (c : Chan) (e : Elem) : F64 :=
  (((F64.widen e).sub (F64.ofBits (s.rlo.get c))).div
    ((F64.ofBits (s.rhi.get c)).sub (F64.ofBits (s.rlo.get c)))).mul (F64.ofNat 255)

/-- The effect of a command that rewrites the pixels of rectangle `r` and tone-maps them: every element of a pixel of
`r` meets `ok`, its SURF byte is the tone-map of the new element, every other element and byte is as before, one
Present(r) is emitted, and nothing else changes but the number of the model's free values (41_compositor R186). -/
def RectEffect (s t : State) (r : Rect) (ok : Nat → Nat → Chan → Elem → Prop) : Prop :=
  ∃ m n d, t = { s with hdr := m, surf := n, presents := s.presents ++ [r], draws := d } ∧
    (∀ px py c, r.covers px py = true →
      ok px py c (cellRead m (idx s.params px py c)) ∧
      cellRead n (idx s.params px py c) = quantize (MapValue s c (cellRead m (idx s.params px py c)))) ∧
    (∀ i, (∀ px py c, r.covers px py = true → i ≠ idx s.params px py c) →
      cellRead m i = s.hdrRead i ∧ cellRead n i = s.surfRead i)

/-- The state after fault entry (60_exceptions R268). -/
def Faulted (s : State) (code : BitVec 4) (op : BitVec 8) (info : FaultInfo) : State :=
  { s with status := { fcode := code, halted := true, fop := op }, faultInfo := some info }

/-- The command words of a list of host actions. -/
def wordCount (h : List HostAct) : Nat := (h.filter fun a => match a with | .word _ => true | _ => false).length

/-- The grounds of 30_encoding R114 on which a header is illegal, bit by bit. -/
def IllegalHeader (hdr : Word) : Prop :=
  (∀ n : OpName, hdr.extractLsb' 0 8 ≠ n.code) ∨ hdr.extractLsb' 21 43 ≠ 0 ∨
    (hdr.extractLsb' 0 8 ≠ 0x01 ∧ hdr.extractLsb' 8 5 ≠ 0) ∨
    (hdr.extractLsb' 0 8 ≠ 0x03 ∧ hdr.extractLsb' 13 2 ≠ 0) ∨
    (hdr.extractLsb' 0 8 ≠ 0x04 ∧ hdr.extractLsb' 0 8 ≠ 0x10 ∧ hdr.extractLsb' 15 1 ≠ 0) ∨
    (hdr.extractLsb' 0 8 ≠ 0x3F ∧ hdr.extractLsb' 16 5 ≠ 0) ∨
    (hdr.extractLsb' 0 8 = 0x3F ∧ 16 ≤ (hdr.extractLsb' 16 5).toNat)

/-- The codes of the fault table (60_exceptions R260). -/
def faultCode : FaultInfo → BitVec 4
  | .outOfBounds _ _ => 1
  | .unknownBlendMode _ => 2
  | .degenerateRange _ _ _ => 3
  | .badOperand _ => 4
  | .illegalCommand _ => 5

/-- The fault an instruction raises in a state that is not halted, none where it raises none (60_exceptions R260). -/
def raises (p : Params) : Instr → Option FaultInfo
  | .setmode msel => if 20 ≤ msel.toNat then some (.unknownBlendMode msel) else none
  | .setga ga =>
    if (F64.ofBits ga).isNan || (F64.ofBits ga).lt f0 || f1.lt (F64.ofBits ga) then some (.badOperand [ga]) else none
  | .setrange ch low high =>
    if (F64.ofBits high).eq (F64.ofBits low) then some (.degenerateRange ch low high) else none
  | .blendpx x y _ _ _ _ => if (pixcoord p x y).isNone then some (.outOfBounds x y) else none
  | .blendpxDa x y _ _ _ _ => if (pixcoord p x y).isNone then some (.outOfBounds x y) else none
  | .readpx x y => if (pixcoord p x y).isNone then some (.outOfBounds x y) else none
  | .mappx x y => if (pixcoord p x y).isNone then some (.outOfBounds x y) else none
  | .fillrect x y w h => if clip p x y w h = .bad then some (.badOperand [x, y, w, h]) else none
  | .clearrect x y w h => if clip p x y w h = .bad then some (.badOperand [x, y, w, h]) else none
  | .drawimg x y w h => if clip p x y w h = .bad then some (.badOperand [x, y, w, h]) else none
  | .tonemap x y w h => if clip p x y w h = .bad then some (.badOperand [x, y, w, h]) else none
  | .extract x y w h => if clip p x y w h = .bad then some (.badOperand [x, y, w, h]) else none
  | _ => none

/-- A packet whose header has the opcode `op` but a bit set that is neither the opcode's nor in `mask`, the bits the
command may use, raises IllegalCommand and has no other effect (30_encoding R107, R114). -/
def OtherHeadersFault (op : BitVec 8) (count : Nat) (mask : Word) : Prop :=
  ∀ (s : State) (hdr : Word) (ops : List Word), s.status.halted = false → s.late = [] → hdr.extractLsb' 0 8 = op →
    hdr &&& ~~~mask ≠ op.setWidth 64 → ops.length = count →
    execute hdr ops s = .next (Faulted s 5 op (.illegalCommand op))

/-- What a command that rewrites a rectangle does: BadOperand where CLIP raises it, nothing where the rectangle is EMPTY,
else its effect on the clipped rectangle (41_compositor R182, R186). -/
def RectCommand (s : State) (i : Instr) (op : BitVec 8) (x y w h : Word) (ok : Nat → Nat → Chan → Elem → Prop) : Prop :=
  match clip s.params x y w h with
  | .bad => exec i s = .next (Faulted s 4 op (.badOperand [x, y, w, h]))
  | .empty => exec i s = .next s
  | .rect r => ∃ t, exec i s = .next t ∧ RectEffect s t r ok

/-- The bounds of a rectangle that is not empty and lies in the buffer, the indices of its pixels among those of both
memories. -/
def InBuffer (p : Params) (r : Rect) : Prop :=
  r.x0 < r.x1 ∧ r.x1 ≤ p.width ∧ r.y0 < r.y1 ∧ r.y1 ≤ p.height ∧
    ∀ px py c, r.covers px py = true → idx p px py c < memSize p

/-- No host write to byte `j` waits. -/
def NoWrite (late : List LateAccess) (j : Nat) : Prop := ∀ b w, LateAccess.write j b w ∉ late

/-- `v` is what byte `j` holds for the host: the value of the last host write to it that waits, else `old`. -/
def HostByte (late : List LateAccess) (j : Nat) (old v : Byte) : Prop :=
  (NoWrite late j ∧ v = old) ∨ ∃ pre post w, late = pre ++ .write j v w :: post ∧ NoWrite post j

/-- A number of at most `p` significant bits times a power of 2. -/
def Representable (p n : Nat) : Prop := ∃ k e, k < 2 ^ p ∧ n = k * 2 ^ e

end Sys2Proof.Claims

open Sys2Proof Sys2Proof.Machine Sys2Proof.Claims

/-! ## Encoding -/

/-- 30_encoding R100, R101, R110, R112: the packet of a well-formed instruction decodes to it, whatever its operands. -/
def Obligations.DecodeOfEncode : Prop := ∀ i : Instr, i.WellFormed → decode (encode i) = .ok i

/-- 30_encoding R100, R107, R114: a packet that decodes is the packet of the well-formed instruction it gives, so no bit
of a legal packet is dropped. -/
def Obligations.EncodeOfDecode : Prop :=
  ∀ (ws : List Word) (i : Instr), decode ws = .ok i → i.WellFormed ∧ encode i = ws

/-- 30_encoding R114, 60_exceptions R266: a packet whose header meets one of R114's grounds raises IllegalCommand, its
N(OP) operand words taken and discarded, and nothing else changes; every other packet is an instruction, which is
executed. N is 0 for an OP that is not listed. -/
def Obligations.IllegalHeaderRaisesIllegalCommand : Prop :=
  (∀ (s : State) (hdr : Word) (ops : List Word) (rest : List HostAct), s.status.halted = false → s.dstate = .idle →
    s.ready = true → s.late = [] → ops.length = operandCount (hdrOp hdr) → s.host = (hdr :: ops).map .word ++ rest →
    let t := { s with cpos := s.cpos + 1 + ops.length, host := rest }
    (IllegalHeader hdr →
      step s = .next (Faulted t 5 (hdr.extractLsb' 0 8) (.illegalCommand (hdr.extractLsb' 0 8)))) ∧
    (¬ IllegalHeader hdr → ∃ i, decodePacket hdr ops = .ok i ∧ step s = exec i t)) ∧
    ∀ op : BitVec 8, (∀ n : OpName, op ≠ n.code) → operandCount op = 0

/-- 30_encoding R110, R111: the number of operand words of every OP value, 0 for the values that are not listed. -/
def Obligations.OperandCountsOfTheOpcodeMap : Prop :=
  ∀ op : BitVec 8, operandCount op =
    if op = 0x02 then 1
    else if op = 0x03 ∨ op = 0x30 ∨ op = 0x31 then 2
    else if op = 0x04 ∨ op = 0x11 ∨ op = 0x12 ∨ op = 0x13 ∨ op = 0x20 ∨ op = 0x32 then 4
    else if op = 0x10 then 6
    else 0

/-- 30_encoding R121: the header words the spec writes out decode to the commands it names. -/
def Obligations.SpecHeaderWordsDecode : Prop :=
  ∀ x y r g b a : Word,
    decode [0x0000000000000000] = .ok .nop ∧
    decode [0x0000000000000001] = .ok .setmodeSource ∧
    decode [0x0000000000000401] = .ok .setmodeSourceOver ∧
    decode [0x0000000000000D01] = .ok .setmodeSubtract ∧
    decode [0x0000000000001301] = .ok .setmodeSoftLight ∧
    decode [0x0000000000000002, x] = .ok (.setga x) ∧
    decode [0x0000000000000003, x, y] = .ok (.setrange .r x y) ∧
    decode [0x0000000000002003, x, y] = .ok (.setrange .g x y) ∧
    decode [0x0000000000004003, x, y] = .ok (.setrange .b x y) ∧
    decode [0x0000000000006003, x, y] = .ok (.setrange .a x y) ∧
    decode [0x0000000000000004, r, g, b, a] = .ok (.setfill r g b a) ∧
    decode [0x0000000000008004, r, g, b, a] = .ok (.setfillDa r g b a) ∧
    decode [0x0000000000000010, x, y, r, g, b, a] = .ok (.blendpx x y r g b a) ∧
    decode [0x0000000000008010, x, y, r, g, b, a] = .ok (.blendpxDa x y r g b a) ∧
    decode [0x0000000000000011, x, y, r, g] = .ok (.fillrect x y r g) ∧
    decode [0x0000000000000012, x, y, r, g] = .ok (.clearrect x y r g) ∧
    decode [0x0000000000000013, x, y, r, g] = .ok (.drawimg x y r g) ∧
    decode [0x0000000000000020, x, y, r, g] = .ok (.tonemap x y r g) ∧
    decode [0x0000000000000021] = .ok .tonemapall ∧
    decode [0x0000000000000030, x, y] = .ok (.readpx x y) ∧
    decode [0x0000000000000031, x, y] = .ok (.mappx x y) ∧
    decode [0x0000000000000032, x, y, r, g] = .ok (.extract x y r g) ∧
    decode [0x000000000000003F] = .ok (.rdreg .status) ∧
    decode [0x00000000000F003F] = .ok (.rdreg .geom)

/-- 20_memory R80: byte k of a word's transfer is bits [8k+7:8k], and the words of a transfer are the words sent. -/
def Obligations.WordsTravelLittleEndian : Prop :=
  (∀ (w : Word) (k j : Nat), k < 8 → j < 8 → ((wordBytes w)[k]?.map fun b => b.getLsbD j) = some (w.getLsbD (8 * k + j))) ∧
    ∀ ws : List Word, wordsOfBytes (ws.flatMap wordBytes) = some ws

/-- 30_encoding R120: CLEARALL clears the whole buffer of an instance of any size 00_scope R7 allows. -/
def Obligations.ClearAllNamesTheWholeBuffer : Prop :=
  ∀ p : Params, p.legal → ∃ x y w h, assemble p "CLEARALL" false [] = some [.clearrect x y w h] ∧
    clip p x y w h = .rect { x0 := 0, y0 := 0, x1 := p.width, y1 := p.height }

/-! ## The command stream -/

/-- 30_encoding R111, R118, 10_state R48: a header at IDLE and exactly the N(OP) words after it, whatever the header, are
taken and that packet is executed, DSTATE being IDLE; where a part of the packet has been collected before, the step
takes the operand words that are missing and executes the whole packet. The HBK accepts words (log 12). -/
def Obligations.StepTakesOneWholePacket : Prop :=
  ∀ (s : State) (hdr : Word) (ops : List Word) (rest : List HostAct), s.ready = true →
    ops.length = operandCount (hdrOp hdr) →
    (s.dstate = .idle → s.host = (hdr :: ops).map .word ++ rest →
      step s = execute hdr ops { s with cpos := s.cpos + 1 + ops.length, host := rest }) ∧
    ∀ got more : List Word, got ++ more = ops → more ≠ [] → s.dstate = .collecting hdr got →
      s.host = more.map .word ++ rest →
      step s = execute hdr ops { s with cpos := s.cpos + more.length, dstate := .idle, host := rest }

/-- 00_scope R6, 30_encoding R118: where the words at the head of the stream decode to an instruction, the step is that
instruction's meaning, in the state with the words taken and CPOS moved past them; where host accesses to SURF wait, they
are settled after it with the rectangle it worked on (20_memory R88; log 8). -/
def Obligations.StepRunsDecodedInstruction : Prop :=
  ∀ (s : State) (ws : List Word) (rest : List HostAct) (i : Instr), s.dstate = .idle → s.ready = true →
    s.host = ws.map .word ++ rest → decode ws = .ok i →
    let s' := { s with cpos := s.cpos + ws.length, host := rest }
    (s.late = [] → step s = exec i s') ∧
    ∃ t, exec i s' = .next t ∧ step s = .next (t.settle (touchedRect i s'))

/-- 10_state R48: while operand words are missing nothing but DSTATE and CPOS changes (and the words are taken), from
IDLE and from inside a packet; the step goes on with what the host does next from there, and ends there where the host
does nothing more. -/
def Obligations.PartialPacketChangesOnlyTheDecoder : Prop :=
  ∀ (s : State) (hdr : Word) (got more : List Word) (rest : List HostAct), s.ready = true →
    got.length + more.length < operandCount (hdrOp hdr) →
    (s.dstate = .idle ∧ got = [] ∧ s.host = (hdr :: more).map .word ++ rest →
      let t := { s with cpos := s.cpos + 1 + more.length, dstate := .collecting hdr more, host := rest }
      step s = step t ∧ (rest = [] → step s = .next t)) ∧
    (s.dstate = .collecting hdr got ∧ s.host = more.map .word ++ rest →
      let t := { s with cpos := s.cpos + more.length, dstate := .collecting hdr (got ++ more), host := rest }
      step s = step t ∧ (rest = [] → step s = .next t))

/-- 60_exceptions R279: with nothing on the command stream the state is held. -/
def Obligations.EmptyStreamHoldsTheState : Prop := ∀ s : State, s.host = [] → step s = .next s

/-- 10_state R32: CPOS is 0 after reset, a step adds to it the words it takes and leaves the rest in order, and no
register read depends on it. -/
def Obligations.CposCountsTheWordsTaken : Prop :=
  (∀ (s : State) (rest : List HostAct), s.host = .reset :: rest →
    ∃ t, step s = .next t ∧ t = ({ s with host := rest } : State).applyReset ∧ t.cpos = 0) ∧
    (∀ s t : State, HostAct.reset ∉ s.host → step s = .next t →
      t.cpos + wordCount t.host = s.cpos + wordCount s.host ∧ t.host <:+ s.host) ∧
    ∀ (s : State) (n : Nat) (r : Reg), ({ s with cpos := n } : State).readReg r = s.readReg r

/-! ## Faults and the halted state -/

/-- 60_exceptions R268, R269: a command that faults changes nothing but STATUS (and the model's record of the info):
FCODE, FOP (the header's bits [7:0]) and HALTED are written, FAULT_IRQ rises, no register, element, byte, response or
event is produced. -/
def Obligations.FaultingCommandWritesStatusOnly : Prop :=
  ∀ (s t : State) (hdr : Word) (ops : List Word), s.status.halted = false → s.late = [] →
    execute hdr ops s = .next t → t.status.halted = true →
    ∃ info, t = Faulted s (faultCode info) (hdr.extractLsb' 0 8) info ∧ s.faultIrq = false ∧ t.faultIrq = true

/-- 60_exceptions R260, R263 to R265: each command raises exactly the fault the table gives it, with its code, on
exactly the operands the table names; every other command leaves STATUS as it was. -/
def Obligations.CommandsRaiseTheirOwnFaultsOnly : Prop :=
  ∀ (i : Instr) (s : State), s.status.halted = false →
    (∀ info, raises s.params i = some info → exec i s = .next (Faulted s (faultCode info) i.opName.code info)) ∧
    (raises s.params i = none →
      ∃ t, exec i s = .next t ∧ t.status = s.status ∧ t.faultInfo = s.faultInfo)

/-- 60_exceptions R270: halted, the decoder frames packets as before; RDREG responds, and every other packet,
well-formed or not, has no effect, no response and no fault. -/
def Obligations.HaltedRunsOnlyNopAndRdreg : Prop :=
  ∀ (s : State) (hdr : Word) (ops : List Word) (rest : List HostAct), s.status.halted = true → s.dstate = .idle →
    s.ready = true → s.late = [] → ops.length = operandCount (hdrOp hdr) →
    s.host = (hdr :: ops).map .word ++ rest →
    step s =
      match decodePacket hdr ops with
      | .ok (.rdreg r) =>
        .next { s with
          cpos := s.cpos + 1 + ops.length
          host := rest
          responses := s.responses ++ [({ s with cpos := s.cpos + 1 + ops.length, host := rest } : State).readReg r] }
      | _ => .next { s with cpos := s.cpos + 1 + ops.length, host := rest }

/-- 60_exceptions R271: no step but reset clears STATUS or leaves the halted state, and no later fault is recorded;
reset clears it. -/
def Obligations.HaltedUntilReset : Prop :=
  (∀ s t : State, s.status.halted = true → HostAct.reset ∉ s.host → step s = .next t →
    t.status = s.status ∧ t.faultInfo = s.faultInfo ∧ t.faultIrq = true) ∧
    ∀ (s : State) (rest : List HostAct), s.host = .reset :: rest →
      ∃ t, step s = .next t ∧ t.status = { fcode := 0, halted := false, fop := 0 } ∧ t.faultIrq = false

/-! ## Coordinates and rectangles -/

/-- 41_compositor R181, 00_scope R16: PIXCOORD gives (a, b) exactly where x and y are finite, a and b are the nearest
whole numbers, ties towards +inf, and the pixel is in the buffer; where it gives none the three commands raise
OutOfBounds. -/
def Obligations.PixcoordNamesTheNearestPixel : Prop :=
  (∀ (p : Params) (x y : Word) (a b : Nat), pixcoord p x y = some (a, b) ↔
    Nearest (F64.ofBits x) a ∧ Nearest (F64.ofBits y) b ∧ a < p.width ∧ b < p.height) ∧
    ∀ (s : State) (x y r g b a : Word), s.status.halted = false → pixcoord s.params x y = none →
      exec (.blendpx x y r g b a) s = .next (Faulted s 1 0x10 (.outOfBounds x y)) ∧
      exec (.blendpxDa x y r g b a) s = .next (Faulted s 1 0x10 (.outOfBounds x y)) ∧
      exec (.readpx x y) s = .next (Faulted s 1 0x30 (.outOfBounds x y)) ∧
      exec (.mappx x y) s = .next (Faulted s 1 0x31 (.outOfBounds x y))

/-- 41_compositor R182: CLIP raises BadOperand exactly on R182's NaN tests; else its result is the set of the buffer's
pixels that the real rectangle meets: EMPTY where it meets none. -/
def Obligations.ClipIsTheSetOfPixelsMet : Prop :=
  ∀ (p : Params) (x y w h : Word),
    match clip p x y w h with
    | .bad => NanRect x y w h
    | .empty => ¬ NanRect x y w h ∧ ∀ px py, ¬ Meets p x y w h px py
    | .rect r => ¬ NanRect x y w h ∧ r.x0 < r.x1 ∧ r.y0 < r.y1 ∧
        ∀ px py, r.covers px py = true ↔ Meets p x y w h px py

/-- 60_exceptions R262, 00_scope R18: the rectangle every command works on is not empty, lies in the buffer, and the
indices of its pixels exist: that of the commands that use SURF, the pixel READPX and MAPPX read, the rectangle EXTRACT
reads. -/
def Obligations.CommandsReachOnlyIndicesThatExist : Prop :=
  (∀ (i : Instr) (s : State) (r : Rect), touchedRect i s = some r → InBuffer s.params r) ∧
    (∀ (s : State) (x y : Word) (px py : Nat), pixcoord s.params x y = some (px, py) →
      InBuffer s.params (pixelRect px py) ∧
      (∀ t, exec (.readpx x y) s = .next t → t.status = s.status) ∧
      ∀ t, exec (.mappx x y) s = .next t → t.status = s.status) ∧
    ∀ (s : State) (x y w h : Word) (r : Rect), clip s.params x y w h = .rect r →
      InBuffer s.params r ∧ ∀ t, exec (.extract x y w h) s = .next t → t.status = s.status

/-! ## Configuration and registers -/

/-- 43_config R231: NOP changes nothing, halted or not; its packet is the zero header; any other bit set in a header
with OP 0 raises IllegalCommand. -/
def Obligations.NopHasNoEffect : Prop :=
  (∀ s : State, exec .nop s = .next s) ∧ encode .nop = [0x0000000000000000] ∧ OtherHeadersFault 0x00 0 0

/-- 43_config R232, 30_encoding R113: SETMODE with a selector of a mode writes MODE.SEL and nothing else; with 20 to 31
it raises UnknownBlendMode and MODE keeps its value. -/
def Obligations.SetmodeSelectsByNumber : Prop :=
  (∀ (s : State) (msel : BitVec 5), s.status.halted = false →
    (msel.toNat < 20 → ∃ m : BlendMode, m.code = msel ∧ exec (.setmode msel) s = .next { s with mode := m }) ∧
    (20 ≤ msel.toNat → exec (.setmode msel) s = .next (Faulted s 2 0x01 (.unknownBlendMode msel)))) ∧
    (∀ msel : BitVec 5, encode (.setmode msel) = [0x01 ||| (msel.setWidth 64 <<< 8)]) ∧
    OtherHeadersFault 0x01 0 0x1F00

/-- 30_encoding R112, 40_blend R149 to R168: each of the twenty named SETMODE rows (their instructions are those with
`selects` some mode) has the header 0x01 | MSEL << 8 and sets MODE to its mode and nothing else, as SETMODE with its
number does. -/
def Obligations.NamedSetmodesSelectTheirModes : Prop :=
  ∀ (s : State) (i : Instr) (m : BlendMode), s.status.halted = false → i.selects = some m →
    encode i = [0x01 ||| (m.code.setWidth 64 <<< 8)] ∧ exec i s = .next { s with mode := m } ∧
      exec (.setmode m.code) s = exec i s ∧ ({ s with mode := m } : State).readReg .mode = m.code.setWidth 64

/-- 43_config R233: SETGA writes GALPHA exactly for the values v with 0 <= v <= 1, bit for bit, and raises BadOperand
for every other value and NaN. -/
def Obligations.SetgaAcceptsExactlyTheUnitInterval : Prop :=
  (∀ (s : State) (ga : Word), s.status.halted = false →
    (f0.le (F64.ofBits ga) = true ∧ (F64.ofBits ga).le f1 = true → exec (.setga ga) s = .next { s with galpha := ga }) ∧
    (¬ (f0.le (F64.ofBits ga) = true ∧ (F64.ofBits ga).le f1 = true) →
      exec (.setga ga) s = .next (Faulted s 4 0x02 (.badOperand [ga])))) ∧
    (∀ ga : Word, encode (.setga ga) = [0x0000000000000002, ga]) ∧ OtherHeadersFault 0x02 1 0

/-- 43_config R234: SETRANGE writes both ends of its channel's range and no other register, unless high == low, when it
raises DegenerateRange; a NaN end is accepted. -/
def Obligations.SetrangeWritesBothEnds : Prop :=
  (∀ (s : State) (c : Chan) (low high : Word), s.status.halted = false →
    ((F64.ofBits high).eq (F64.ofBits low) = false →
      ∃ lo hi, exec (.setrange c low high) s = .next { s with rlo := lo, rhi := hi } ∧
        lo.get c = low ∧ hi.get c = high ∧ ∀ d, d ≠ c → lo.get d = s.rlo.get d ∧ hi.get d = s.rhi.get d) ∧
    ((F64.ofBits high).eq (F64.ofBits low) = true →
      exec (.setrange c low high) s = .next (Faulted s 3 0x03 (.degenerateRange c low high))) ∧
    (F64.ofBits low = .nan ∨ F64.ofBits high = .nan → (F64.ofBits high).eq (F64.ofBits low) = false)) ∧
    (∀ (c : Chan) (low high : Word),
      encode (.setrange c low high) = [0x03 ||| (BitVec.ofNat 64 c.index <<< 13), low, high]) ∧
    OtherHeadersFault 0x03 2 0x6000

/-- 43_config R235, 41_compositor R188: SETFILL writes the four fill registers and nothing else, whatever the colour;
with DA = 1 the alpha is 255.0 whatever the alpha word. -/
def Obligations.SetfillWritesTheColour : Prop :=
  (∀ (s : State) (r g b a : Word), s.status.halted = false →
    exec (.setfill r g b a) s = .next { s with fill := { r := r, g := g, b := b, a := a } } ∧
    exec (.setfillDa r g b a) s = .next { s with fill := { r := r, g := g, b := b, a := 0x406FE00000000000 } }) ∧
    (∀ r g b a : Word, encode (.setfill r g b a) = [0x0000000000000004, r, g, b, a] ∧
      encode (.setfillDa r g b a) = [0x0000000000008004, r, g, b, a]) ∧
    OtherHeadersFault 0x04 4 0x8000

/-- 43_config R238, 10_state R34: RDREG of index k responds the 64 bits of register k, halted or not, and changes nothing
else. -/
def Obligations.RdregRespondsTheRegister : Prop :=
  (∀ (s : State) (reg : Reg), ∃ w, exec (.rdreg reg) s = .next { s with responses := s.responses ++ [w] } ∧
    (reg.index = 0 → w = statusWord s.status) ∧ (reg.index = 1 → w = s.mode.code.setWidth 64) ∧
    (reg.index = 2 → w = s.galpha) ∧ (reg.index = 3 → w = s.rlo.r) ∧ (reg.index = 4 → w = s.rlo.g) ∧
    (reg.index = 5 → w = s.rlo.b) ∧ (reg.index = 6 → w = s.rlo.a) ∧ (reg.index = 7 → w = s.rhi.r) ∧
    (reg.index = 8 → w = s.rhi.g) ∧ (reg.index = 9 → w = s.rhi.b) ∧ (reg.index = 10 → w = s.rhi.a) ∧
    (reg.index = 11 → w = s.fill.r) ∧ (reg.index = 12 → w = s.fill.g) ∧ (reg.index = 13 → w = s.fill.b) ∧
    (reg.index = 14 → w = s.fill.a) ∧ (reg.index = 15 → w = geomWord s.params)) ∧
    (∀ k : BitVec 5, k.toNat < 16 ↔ ∃ reg : Reg, reg.index = k) ∧
    (∀ reg : Reg, encode (.rdreg reg) = [0x3F ||| (reg.index.setWidth 64 <<< 16)]) ∧
    OtherHeadersFault 0x3F 0 0xF0000

/-- 10_state R35 to R37: the fields of the STATUS word, and every other bit 0. -/
def Obligations.StatusWordFields : Prop :=
  ∀ (st : Status) (i : Nat), (statusWord st).getLsbD i =
    if i < 4 then st.fcode.getLsbD i
    else if i = 8 then st.halted
    else if 16 ≤ i ∧ i < 24 then st.fop.getLsbD (i - 16)
    else false

/-- 10_state R43: GEOM holds W in its low and H in its high half, and no step changes it. -/
def Obligations.GeomIsHardwired : Prop :=
  (∀ s : State, s.params.legal → ((s.readReg .geom).extractLsb' 0 32).toNat = s.params.width ∧
    ((s.readReg .geom).extractLsb' 32 32).toNat = s.params.height) ∧
    ∀ s t : State, step s = .next t → t.readReg .geom = s.readReg .geom

/-- 10_state R44: no command writes a control register but its SET command, and none writes GEOM; STATUS changes only by
fault entry. -/
def Obligations.OnlySetCommandsWriteRegisters : Prop :=
  ∀ (i : Instr) (s t : State), exec i s = .next t →
    (t.mode ≠ s.mode → i.opName = .setmode) ∧ (t.galpha ≠ s.galpha → i.opName = .setga) ∧
    (t.rlo ≠ s.rlo ∨ t.rhi ≠ s.rhi → i.opName = .setrange) ∧ (t.fill ≠ s.fill → i.opName = .setfill) ∧
    (t.status ≠ s.status → s.status.halted = false ∧ t.status.halted = true) ∧
    t.readReg .geom = s.readReg .geom

/-- 20_memory R93, 43_config R230: a configuration command changes neither memory and produces no response and no
Present event. -/
def Obligations.ConfigurationTouchesNoPixel : Prop :=
  ∀ (i : Instr) (s t : State), i.opName ∈ [OpName.nop, .setmode, .setga, .setrange, .setfill] → exec i s = .next t →
    t.hdr = s.hdr ∧ t.surf = s.surf ∧ t.responses = s.responses ∧ t.presents = s.presents ∧ t.draws = s.draws

/-! ## Read-back -/

/-- 43_config R236: READPX responds the four elements of the rounded pixel, each exact (a NaN as any NaN), and changes
nothing else; where PIXCOORD gives no pixel it raises OutOfBounds and responds nothing. -/
def Obligations.ReadpxRespondsTheStoredPixel : Prop :=
  (∀ (s : State) (x y : Word), s.status.halted = false →
    (∀ px py : Nat, pixcoord s.params x y = some (px, py) →
      ∃ w0 w1 w2 w3 d,
        exec (.readpx x y) s = .next { s with responses := s.responses ++ [w0, w1, w2, w3], draws := d } ∧
        Answers (F64.widen (s.hdrRead (idx s.params px py .r))) w0 ∧
        Answers (F64.widen (s.hdrRead (idx s.params px py .g))) w1 ∧
        Answers (F64.widen (s.hdrRead (idx s.params px py .b))) w2 ∧
        Answers (F64.widen (s.hdrRead (idx s.params px py .a))) w3) ∧
    (pixcoord s.params x y = none → exec (.readpx x y) s = .next (Faulted s 1 0x30 (.outOfBounds x y)))) ∧
    (∀ x y : Word, encode (.readpx x y) = [0x0000000000000030, x, y]) ∧ OtherHeadersFault 0x30 2 0

/-- 42_tonemap R219, R211, R212: MAPPX responds the range-mapper's output of each channel of the rounded pixel, neither
clamped nor quantized, and changes nothing else; where PIXCOORD gives no pixel it raises OutOfBounds and responds
nothing. -/
def Obligations.MappxRespondsTheRangeMap : Prop :=
  (∀ (s : State) (x y : Word), s.status.halted = false →
    (∀ px py : Nat, pixcoord s.params x y = some (px, py) →
      ∃ w0 w1 w2 w3 d,
        exec (.mappx x y) s = .next { s with responses := s.responses ++ [w0, w1, w2, w3], draws := d } ∧
        Answers (MapValue s .r (s.hdrRead (idx s.params px py .r))) w0 ∧
        Answers (MapValue s .g (s.hdrRead (idx s.params px py .g))) w1 ∧
        Answers (MapValue s .b (s.hdrRead (idx s.params px py .b))) w2 ∧
        Answers (MapValue s .a (s.hdrRead (idx s.params px py .a))) w3) ∧
    (pixcoord s.params x y = none → exec (.mappx x y) s = .next (Faulted s 1 0x31 (.outOfBounds x y)))) ∧
    (∀ x y : Word, encode (.mappx x y) = [0x0000000000000031, x, y]) ∧ OtherHeadersFault 0x31 2 0

/-- 43_config R237, 41_compositor R184: EXTRACT responds the clipped size and then the elements of the rectangle row by
row, and changes nothing else; an EMPTY rectangle gives one zero word, a bad one BadOperand and no response. -/
def Obligations.ExtractStreamsTheRectangle : Prop :=
  (∀ (s : State) (x y w h : Word), s.params.legal → s.status.halted = false →
    match clip s.params x y w h with
    | .bad => exec (.extract x y w h) s = .next (Faulted s 4 0x32 (.badOperand [x, y, w, h]))
    | .empty => exec (.extract x y w h) s = .next { s with responses := s.responses ++ [0x0000000000000000] }
    | .rect r =>
      ∃ ws d, exec (.extract x y w h) s = .next { s with responses := s.responses ++ ws, draws := d } ∧
        ws.length = 1 + 4 * (r.x1 - r.x0) * (r.y1 - r.y0) ∧
        (∃ w0, ws[0]? = some w0 ∧ w0.toNat = (r.x1 - r.x0) + 2 ^ 32 * (r.y1 - r.y0)) ∧
        ∀ px py c, r.covers px py = true →
          ∃ e, ws[1 + 4 * ((py - r.y0) * (r.x1 - r.x0) + (px - r.x0)) + c.index]? = some e ∧
            Answers (F64.widen (s.hdrRead (idx s.params px py c))) e) ∧
    (∀ x y w h : Word, encode (.extract x y w h) = [0x0000000000000032, x, y, w, h]) ∧ OtherHeadersFault 0x32 4 0

/-- 43_config R230: a read-back command that does not fault changes no state but the response stream (and the number of
the model's free values). -/
def Obligations.ReadbackOnlyResponds : Prop :=
  ∀ (i : Instr) (s t : State), i.opName ∈ [OpName.readpx, .mappx, .extract, .rdreg] → exec i s = .next t →
    t.status = s.status → ∃ ws d, t = { s with responses := s.responses ++ ws, draws := d }

/-! ## The compositor and the tone-map -/

/-- 41_compositor R187, R188, 40_blend R142 to R145: BLENDPX merges its colour into the rounded pixel and tone-maps that
pixel; with DA = 1 the source alpha is 255 whatever the alpha word; where PIXCOORD gives no pixel both raise
OutOfBounds. -/
def Obligations.BlendpxMergesOnePixel : Prop :=
  (∀ (s : State) (x y r g b a : Word), s.Inv → s.status.halted = false →
    (∀ px py : Nat, pixcoord s.params x y = some (px, py) →
      (∃ t, exec (.blendpx x y r g b a) s = .next t ∧
        RectEffect s t { x0 := px, y0 := py, x1 := px + 1, y1 := py + 1 } fun qx qy c e =>
          Stores (MergeValue s (qy * s.params.width + qx)
            { r := F64.ofBits r, g := F64.ofBits g, b := F64.ofBits b, a := F64.ofBits a } c) e) ∧
      (∃ t, exec (.blendpxDa x y r g b a) s = .next t ∧
        RectEffect s t { x0 := px, y0 := py, x1 := px + 1, y1 := py + 1 } fun qx qy c e =>
          Stores (MergeValue s (qy * s.params.width + qx)
            { r := F64.ofBits r, g := F64.ofBits g, b := F64.ofBits b, a := F64.ofNat 255 } c) e)) ∧
    (pixcoord s.params x y = none →
      exec (.blendpx x y r g b a) s = .next (Faulted s 1 0x10 (.outOfBounds x y)) ∧
      exec (.blendpxDa x y r g b a) s = .next (Faulted s 1 0x10 (.outOfBounds x y)))) ∧
    (∀ x y r g b a : Word, encode (.blendpx x y r g b a) = [0x0000000000000010, x, y, r, g, b, a] ∧
      encode (.blendpxDa x y r g b a) = [0x0000000000008010, x, y, r, g, b, a]) ∧
    OtherHeadersFault 0x10 6 0x8000

/-- 41_compositor R189: FILLRECT merges the fill colour into every pixel of the clipped rectangle and tone-maps it. -/
def Obligations.FillrectMergesEveryPixel : Prop :=
  (∀ (s : State) (x y w h : Word), s.Inv → s.status.halted = false →
    RectCommand s (.fillrect x y w h) 0x11 x y w h fun px py c e =>
      Stores (MergeValue s (py * s.params.width + px)
        { r := F64.ofBits s.fill.r, g := F64.ofBits s.fill.g, b := F64.ofBits s.fill.b, a := F64.ofBits s.fill.a } c)
        e) ∧
    (∀ x y w h : Word, encode (.fillrect x y w h) = [0x0000000000000011, x, y, w, h]) ∧ OtherHeadersFault 0x11 4 0

/-- 41_compositor R191, R192: DRAWIMG merges the SURF bytes of every pixel of the clipped rectangle, as they were before
the command, into that pixel and tone-maps the rectangle. -/
def Obligations.DrawimgMergesTheSurfacePixels : Prop :=
  (∀ (s : State) (x y w h : Word), s.Inv → s.status.halted = false →
    RectCommand s (.drawimg x y w h) 0x13 x y w h fun px py c e =>
      Stores (MergeValue s (py * s.params.width + px)
        { r := F64.ofNat (s.surfRead ((py * s.params.width + px) * 4)).toNat
          g := F64.ofNat (s.surfRead ((py * s.params.width + px) * 4 + 1)).toNat
          b := F64.ofNat (s.surfRead ((py * s.params.width + px) * 4 + 2)).toNat
          a := F64.ofNat (s.surfRead ((py * s.params.width + px) * 4 + 3)).toNat } c) e) ∧
    (∀ x y w h : Word, encode (.drawimg x y w h) = [0x0000000000000013, x, y, w, h]) ∧ OtherHeadersFault 0x13 4 0

/-- 41_compositor R190: CLEARRECT stores +0.0 in every element of the clipped rectangle, whatever the mode, and
tone-maps it. -/
def Obligations.ClearrectZeroesTheRectangle : Prop :=
  (∀ (s : State) (x y w h : Word), s.Inv → s.status.halted = false →
    RectCommand s (.clearrect x y w h) 0x12 x y w h fun _ _ _ e => e = 0x00000000) ∧
    (∀ x y w h : Word, encode (.clearrect x y w h) = [0x0000000000000012, x, y, w, h]) ∧ OtherHeadersFault 0x12 4 0

/-- 42_tonemap R217, R218, R214 to R216: TONEMAP rewrites the SURF bytes of its clipped rectangle, TONEMAPALL those of
the whole buffer, each with one Present event; the HDR memory keeps its contents. -/
def Obligations.TonemapRewritesSurfOnly : Prop :=
  (∀ (s : State) (x y w h : Word), s.Inv → s.status.halted = false →
    RectCommand s (.tonemap x y w h) 0x20 x y w h (fun px py c e => e = s.hdrRead (idx s.params px py c)) ∧
    (∃ t, exec .tonemapall s = .next t ∧
      RectEffect s t { x0 := 0, y0 := 0, x1 := s.params.width, y1 := s.params.height } fun px py c e =>
        e = s.hdrRead (idx s.params px py c)) ∧
    ∀ t, exec (.tonemap x y w h) s = .next t ∨ exec .tonemapall s = .next t → t.hdr = s.hdr) ∧
    (∀ x y w h : Word, encode (.tonemap x y w h) = [0x0000000000000020, x, y, w, h]) ∧
    encode .tonemapall = [0x0000000000000021] ∧ OtherHeadersFault 0x20 4 0 ∧ OtherHeadersFault 0x21 0 0

/-- 41_compositor R185, R186, 20_memory R72, R77: no command changes an HDR element or a SURF byte outside the rectangle
it touches; a command that touches none changes neither memory. -/
def Obligations.CommandsTouchOnlyTheirRectangle : Prop :=
  ∀ (i : Instr) (s t : State) (k : Nat), s.Inv → exec i s = .next t →
    (∀ r, touchedRect i s = some r → r.coversIndex s.params k = false) →
    cellRead t.hdr k = s.hdrRead k ∧ cellRead t.surf k = s.surfRead k

/-- 41_compositor R184, R185, 00_scope R11: the order in which a rectangle command visits its pixels does not show, in
the merge, the clear or the tone-map. -/
def Obligations.PixelOrderDoesNotShow : Prop :=
  ∀ (s : State) (src : Nat × Nat → Quad F64) (l l' : List (Nat × Nat)), s.Inv → l.Perm l' → l.Nodup →
    (∀ q ∈ l, q.1 < s.params.width ∧ q.2 < s.params.height) →
    s.mergeAll src l = s.mergeAll src l' ∧ s.clearAll l = s.clearAll l' ∧ s.toneAll l = s.toneAll l'

/-- 42_tonemap R210: the tone-map reads neither MODE, GALPHA nor the fill colour: two states that differ in them only
give outcomes that differ in them only. -/
def Obligations.TonemapIgnoresTheBlendRegisters : Prop :=
  ∀ (i : Instr) (s t : State) (m : BlendMode) (ga : Word) (q : Quad Word),
    i.opName ∈ [OpName.tonemap, .tonemapall, .mappx] → exec i s = .next t →
    exec i { s with mode := m, galpha := ga, fill := q } = .next { t with mode := m, galpha := ga, fill := q }

/-- 41_compositor R195 (a), which the spec derives: READPX of a pixel of a rectangle just cleared responds four zero
words. -/
def Obligations.ClearedPixelsReadZero : Prop :=
  ∀ (s t : State) (x y w h x' y' : Word) (r : Rect) (px py : Nat), s.Inv → s.status.halted = false →
    clip s.params x y w h = .rect r → exec (.clearrect x y w h) s = .next t → r.covers px py = true →
    pixcoord s.params x' y' = some (px, py) →
    ∃ u, exec (.readpx x' y') t = .next u ∧ u.responses = t.responses ++ [0, 0, 0, 0]

/-- 41_compositor R195 (b), which the spec derives: in mode source a pixel blended and read back gives
f64(f32(c * As)) for each colour and f64(f32(As * 255)) for alpha, As = (a * GALPHA) / 255. -/
def Obligations.SourceModeRoundTrip : Prop :=
  ∀ (s t : State) (x y r g b a : Word) (px py : Nat), s.Inv → s.status.halted = false → s.mode = .source →
    pixcoord s.params x y = some (px, py) → exec (.blendpx x y r g b a) s = .next t →
    let as := ((F64.ofBits a).mul (F64.ofBits s.galpha)).div (F64.ofNat 255)
    ∃ u w0 w1 w2 w3 e0 e1 e2 e3, exec (.readpx x y) t = .next u ∧ u.responses = t.responses ++ [w0, w1, w2, w3] ∧
      (Stores ((F64.ofBits r).mul as) e0 ∧ Answers (F64.widen e0) w0) ∧
      (Stores ((F64.ofBits g).mul as) e1 ∧ Answers (F64.widen e1) w1) ∧
      (Stores ((F64.ofBits b).mul as) e2 ∧ Answers (F64.widen e2) w2) ∧
      (Stores (as.mul (F64.ofNat 255)) e3 ∧ Answers (F64.widen e3) w3)

/-- 40_blend R150 and 90_conflicts C2, which the spec derives from the formula: in mode destination a merge into a pixel
whose stored alpha is 255.0 and whose colours are not NaN leaves the HDR memory as it was, whatever the source. -/
def Obligations.OpaqueDestinationIsKept : Prop :=
  ∀ (s : State) (p : Nat) (src : Quad F64), s.Inv → s.mode = .destination →
    p < s.params.width * s.params.height → s.hdrRead (4 * p + 3) = 0x437F0000 →
    F64.widen (s.hdrRead (4 * p)) ≠ .nan → F64.widen (s.hdrRead (4 * p + 1)) ≠ .nan →
    F64.widen (s.hdrRead (4 * p + 2)) ≠ .nan → (s.merge p src).hdr = s.hdr

/-! ## The blend functions -/

/-- 40_blend R149 to R160: the component and alpha functions of the Porter-Duff modes, as the spec's rows write them. -/
def Obligations.PorterDuffFormulas : Prop :=
  ∀ (bs : Bases) (s d as ad : F64),
    (comp bs .source s d as ad = s.mul as ∧ alpha .source as ad = as) ∧
    (comp bs .destination s d as ad = d.mul ad ∧ alpha .destination as ad = ad) ∧
    (comp bs .clear s d as ad = .fin false 0 ∧ alpha .clear as ad = .fin false 0) ∧
    (comp bs .xor s d as ad =
        ((s.mul as).mul ((F64.ofNat 1).sub ad)).add ((d.mul ad).mul ((F64.ofNat 1).sub as)) ∧
      alpha .xor as ad = (as.add ad).sub (((F64.ofNat 2).mul as).mul ad)) ∧
    (comp bs .sourceOver s d as ad = (s.mul as).add ((d.mul ad).mul ((F64.ofNat 1).sub as)) ∧
      alpha .sourceOver as ad = (as.add ad).sub (as.mul ad)) ∧
    (comp bs .sourceIn s d as ad = (s.mul as).mul ad ∧ alpha .sourceIn as ad = as.mul ad) ∧
    (comp bs .sourceOut s d as ad = (s.mul as).mul ((F64.ofNat 1).sub ad) ∧
      alpha .sourceOut as ad = as.mul ((F64.ofNat 1).sub ad)) ∧
    (comp bs .sourceAtop s d as ad = ((s.mul as).mul ad).add ((d.mul ad).mul ((F64.ofNat 1).sub as)) ∧
      alpha .sourceAtop as ad = ad) ∧
    (comp bs .destinationOver s d as ad = (d.mul ad).add ((s.mul as).mul ((F64.ofNat 1).sub ad)) ∧
      alpha .destinationOver as ad = (as.add ad).sub (as.mul ad)) ∧
    (comp bs .destinationIn s d as ad = (d.mul ad).mul as ∧ alpha .destinationIn as ad = as.mul ad) ∧
    (comp bs .destinationOut s d as ad = (d.mul ad).mul ((F64.ofNat 1).sub as) ∧
      alpha .destinationOut as ad = ad.mul ((F64.ofNat 1).sub as)) ∧
    (comp bs .destinationAtop s d as ad = ((d.mul ad).mul as).add ((s.mul as).mul ((F64.ofNat 1).sub ad)) ∧
      alpha .destinationAtop as ad = as)

/-- 40_blend R161 to R168: the component functions of the other modes, as the spec's rows write them; of the overlay
family what the source fixes: its predicates, the mapping of src in soft-light, the weighting, the source-over alpha. The
bodies on the two sides of a predicate are the instance's: uninterpreted ones for the families `other k`, the spec's
defaults for `standard`, which are its general knowledge (the model's choice, log 5). -/
def Obligations.SeparableModeFormulas : Prop :=
  (∀ m : BlendMode, m ∈ [BlendMode.add, .subtract, .multiply, .average, .screen, .overlay, .hardLight, .softLight] →
    ∀ as ad, alpha m as ad = (as.add ad).sub (as.mul ad)) ∧
    ∀ s d as ad : F64,
      let weighted (base : F64) := (base.mul as).add ((d.mul ad).mul ((F64.ofNat 1).sub as))
      let t := (s.div (F64.ofNat 2)).add (F64.ofNat 64)
      let lo (x : F64) := (((F64.ofNat 2).mul x).mul d).div (F64.ofNat 255)
      let hi (x : F64) := (F64.ofNat 255).sub
        ((((F64.ofNat 2).mul ((F64.ofNat 255).sub x)).mul ((F64.ofNat 255).sub d)).div (F64.ofNat 255))
      (∀ bs : Bases,
        comp bs .add s d as ad = (d.mul ad).add (s.mul as) ∧
        comp bs .subtract s d as ad = (d.mul ad).sub (s.mul as) ∧
        comp bs .multiply s d as ad = weighted ((s.mul d).div (F64.ofNat 255)) ∧
        comp bs .average s d as ad = weighted ((s.add d).div (F64.ofNat 2)) ∧
        comp bs .screen s d as ad = weighted ((F64.ofNat 255).sub
          ((((F64.ofNat 255).sub s).mul ((F64.ofNat 255).sub d)).div (F64.ofNat 255)))) ∧
      (∀ k : Nat,
        comp (.other k) .overlay s d as ad = weighted
          (if (F64.ofNat 128).lt s then openBase (Config.ovlHi k) s d else openBase (Config.ovlLo k) s d) ∧
        comp (.other k) .hardLight s d as ad = weighted
          (if s.lt (F64.ofNat 128) then openBase (Config.hlLo k) s d else openBase (Config.hlHi k) s d) ∧
        comp (.other k) .softLight s d as ad = weighted
          (if d.lt (F64.ofNat 128) then openBase (Config.slLo k) t d else openBase (Config.slHi k) t d)) ∧
      comp .standard .overlay s d as ad = weighted (if (F64.ofNat 128).lt s then hi s else lo s) ∧
      comp .standard .hardLight s d as ad = weighted (if s.lt (F64.ofNat 128) then lo s else hi s) ∧
      comp .standard .softLight s d as ad = weighted (if d.lt (F64.ofNat 128) then lo t else hi t)

/-- 40_blend R169, which the spec derives: the classes of modes that compute one alpha, each with its formula: the ten
of source-over, As * Ad, As, Ad, As * (1 - Ad), Ad * (1 - As), xor's, and 0; the symmetric alphas are symmetric exactly,
source-out mirrors destination-out, and xor's is symmetric as long as twice each fraction is finite (without that premise
it is not: an overflow of 2 * As alone breaks it, NOTES.md). -/
def Obligations.AlphaFunctionClasses : Prop :=
  (∀ as ad : F64,
    (∀ m ∈ [BlendMode.sourceOver, .destinationOver, .add, .subtract, .multiply, .average, .screen, .overlay, .hardLight,
      .softLight], alpha m as ad = (as.add ad).sub (as.mul ad) ∧ alpha m as ad = alpha m ad as) ∧
    (∀ m ∈ [BlendMode.sourceIn, .destinationIn], alpha m as ad = as.mul ad ∧ alpha m as ad = alpha m ad as) ∧
    (∀ m ∈ [BlendMode.source, .destinationAtop], alpha m as ad = as) ∧
    (∀ m ∈ [BlendMode.destination, .sourceAtop], alpha m as ad = ad) ∧
    alpha .sourceOut as ad = as.mul ((F64.ofNat 1).sub ad) ∧
    alpha .destinationOut as ad = ad.mul ((F64.ofNat 1).sub as) ∧
    alpha .sourceOut as ad = alpha .destinationOut ad as ∧
    alpha .xor as ad = (as.add ad).sub (((F64.ofNat 2).mul as).mul ad) ∧
    alpha .clear as ad = F64.ofNat 0) ∧
    ∀ a b : Word, ((F64.ofNat 2).mul (F64.ofBits a)).isFinite = true →
      ((F64.ofNat 2).mul (F64.ofBits b)).isFinite = true →
      alpha .xor (F64.ofBits a) (F64.ofBits b) = alpha .xor (F64.ofBits b) (F64.ofBits a)

/-! ## Arithmetic -/

/-- 00_scope R14: rounding gives a number of `p` significant bits, none of them nearer to the exact quotient, and of two
equally near ones the one whose significand is even; the last place is a rounding to the nearest whole number with ties
to even. With `p` = 53 it is binary64's, with 24 binary32's. -/
def Obligations.RoundingIsToNearestEven : Prop :=
  (∀ p num den : Nat, 0 < p → 0 < den → Representable p (roundPlaces p num den) ∧
    ∀ m, Representable p m →
      ((num : Int) - roundPlaces p num den * den).natAbs ≤ ((num : Int) - m * den).natAbs ∧
      (m ≠ roundPlaces p num den →
        ((num : Int) - roundPlaces p num den * den).natAbs = ((num : Int) - m * den).natAbs →
        (roundPlaces p num den / 2 ^ ((num / den).log2 + 1 - p)) % 2 = 0)) ∧
    ∀ num den : Nat, 0 < den → 2 * ((num : Int) - roundHalfEven num den * den).natAbs ≤ den ∧
      (2 * ((num : Int) - roundHalfEven num den * den).natAbs = den → roundHalfEven num den % 2 = 0)

/-- 00_scope R15: fromBits64 and bits64 are inverse on every pattern that is no NaN, and a pattern is a NaN exactly when
its exponent is all ones and its fraction is not 0. -/
def Obligations.PatternsAndValuesAgree : Prop :=
  (∀ w v : Word, F64.ofBits w ≠ .nan → (F64.ofBits w).bits v = w) ∧
    ∀ w : Word, F64.ofBits w = .nan ↔ w.extractLsb' 52 11 = 0x7FF ∧ w.extractLsb' 0 52 ≠ 0

/-- 00_scope R15: widening a stored element is exact: with sign, exponent field and fraction read from the pattern, the
value is the fraction in units of 2^-149 where the exponent is 0, (2^23 + fraction) * 2^(exponent - 1) of them where it
is below 255 (one of them is 2^925 of the units of 2^-1074), an infinity or a NaN where it is 255; and narrowing it again
gives the element. -/
def Obligations.NarrowUndoesWiden : Prop :=
  (∀ e : Elem,
    let neg := e.getLsbD 31
    let ex := (e.extractLsb' 23 8).toNat
    let frac := (e.extractLsb' 0 23).toNat
    (ex = 0 → F64.widen e = .fin neg (frac * 2 ^ 925)) ∧
    (0 < ex ∧ ex < 255 → F64.widen e = .fin neg ((2 ^ 23 + frac) * 2 ^ (ex - 1) * 2 ^ 925)) ∧
    (ex = 255 ∧ frac = 0 → F64.widen e = .inf neg) ∧
    (ex = 255 ∧ frac ≠ 0 → F64.widen e = .nan)) ∧
    ∀ e v : Elem, F64.widen e ≠ .nan → (F64.widen e).narrow v = e

/-- 00_scope R10: the draws NAN64 and NAN32 are NaNs, and every NaN is one of them. -/
def Obligations.DrawsAreExactlyTheNans : Prop :=
  (∀ w : Word, F64.ofBits w = .nan ↔ ∃ d, nan64 d = w) ∧ ∀ e : Elem, F64.widen e = .nan ↔ ∃ d, nan32 d = e

/-- 42_tonemap R213: the quantizer saturates, sends NaN to 0, and rounds to the nearest whole number with ties to
even. The spec marks the exact rule as its own general knowledge. -/
def Obligations.QuantizerSaturatesAndRounds : Prop :=
  ∀ v : F64, (v = .nan → quantize v = 0) ∧ (v.le (F64.ofNat 0) = true → quantize v = 0) ∧
    ((F64.ofNat 255).le v = true → quantize v = 255) ∧
    ∀ n, v = .fin false n → v.le (F64.ofNat 255) = true →
      2 * ((n : Int) - (quantize v).toNat * unit64).natAbs ≤ unit64 ∧
      (2 * ((n : Int) - (quantize v).toNat * unit64).natAbs = unit64 → (quantize v).toNat % 2 = 0)

/-- 42_tonemap R221, which the spec derives: in a state with the range invariant no channel divides by a zero, whatever
its ends: finite, infinite or NaN. -/
def Obligations.RangeMapperNeverDividesByZero : Prop :=
  ∀ (s : State) (c : Chan), s.Inv →
    ∀ neg, (F64.ofBits (s.rhi.get c)).sub (F64.ofBits (s.rlo.get c)) ≠ .fin neg 0

/-! ## Invariants, reset and the host -/

/-- 10_state R35 to R41, R48, 00_scope R7, 20_memory R70, R75: every step from a sound state gives a sound state. -/
def Obligations.StepKeepsTheInvariant : Prop := ∀ s t : State, s.Inv → step s = .next t → t.Inv

/-- 70_reset R291: a sound state stands after reset, for every size of instance and every contents of SURF. -/
def Obligations.ResetMeetsTheInvariant : Prop :=
  State.reset.Inv ∧ ∀ (p : Params) (surf : List Host.Cell), p.legal → Memory.wf (memSize p) surf →
    (State.resetOf p surf).Inv

/-- 70_reset R290, R291: whatever the HBK is doing, halted or inside a packet, a reset gives every register, the HDR
memory, the decoder and the streams their reset values, and keeps SURF and the parameters; the words still to be sent are
the host's. That host accesses to SURF still waiting are settled then, with nothing contending, and that the host's
pending actions are kept, is the model's choice (log 11). -/
def Obligations.ResetRestoresAllButSurf : Prop :=
  ∀ (s : State) (rest : List HostAct), s.host = .reset :: rest →
    (s.late = [] → s.settle none = s) ∧
    ∃ t, step s = .next t ∧ (∀ i, t.hdrRead i = 0x00000000) ∧ t =
      { s.settle none with
        cpos := 0
        dstate := .idle
        status := { fcode := 0, halted := false, fop := 0 }
        mode := .sourceOver
        galpha := 0x3FF0000000000000
        rlo := { r := 0, g := 0, b := 0, a := 0 }
        rhi := { r := 0x406FE00000000000, g := 0x406FE00000000000, b := 0x406FE00000000000, a := 0x406FE00000000000 }
        fill := { r := 0, g := 0, b := 0, a := 0x406FE00000000000 }
        hdr := []
        responses := []
        presents := []
        faultInfo := none
        host := rest }

/-- 20_memory R77, R87: while SURF is not busy the host's port writes one byte of SURF and reads one, and changes nothing
else, inside a packet or not, halted or not. SURF is busy while a packet of a command that uses SURF is being collected
(70_reset R297), or an access waits already; an access made then, or one that falls in a command's execution, waits for
the command's end: a write is seen at once or not, a read is recorded with the byte it gives where no command contends
and with a free one (R88; how accesses wait is the model's, log 8). An index the port does not have stops the machine
with a name (the model's choice, log 10). -/
def Obligations.HostPortReachesSurfOnly : Prop :=
  (∀ s : State, s.surfBusy = true ↔ s.late ≠ [] ∨ ∃ hdr got, s.dstate = .collecting hdr got ∧
    s.status.halted = false ∧ hdr.extractLsb' 0 8 ∈ [(0x10 : BitVec 8), 0x11, 0x12, 0x13, 0x20, 0x21]) ∧
  ∀ (s : State) (j : Nat) (b : Byte) (rest : List HostAct), s.Inv →
    (j < memSize s.params →
      (s.surfBusy = false → s.host = .surfWrite j b :: rest →
        ∃ m, step s = .next { s with surf := m, host := rest } ∧ cellRead m j = b ∧
          ∀ k, k ≠ j → cellRead m k = s.surfRead k) ∧
      (s.surfBusy = false → s.host = .surfRead j :: rest →
        step s = .next { s with hostReads := s.hostReads ++ [s.surfRead j], host := rest }) ∧
      (s.surfBusy = true ∧ s.host = .surfWrite j b :: rest ∨ s.host = .raceWrite j b :: rest →
        ∃ m, step s = .next { s with
            surf := m
            late := s.late ++ [.write j b (Config.raceWins s.draws)]
            draws := s.draws + 1
            host := rest } ∧
          (cellRead m j = if Config.raceSeen s.draws then b else s.surfRead j) ∧
          ∀ k, k ≠ j → cellRead m k = s.surfRead k) ∧
      (s.surfBusy = true ∧ s.host = .surfRead j :: rest ∨ s.host = .raceRead j :: rest →
        ∃ v, step s = .next { s with
            late := s.late ++ [.read j v (Config.raceByte s.draws)]
            draws := s.draws + 1
            host := rest } ∧ HostByte s.late j (s.surfRead j) v)) ∧
    (memSize s.params ≤ j →
      s.host ∈ [HostAct.surfWrite j b, .surfRead j, .raceWrite j b, .raceRead j].map (· :: rest) →
      step s = .fault (.surfIndex j))

/-- 10_state R50, 70_reset R301: the response stream and the present port are FIFOs: the host takes the oldest response
word or Present event, and nothing else changes; nothing is dropped or duplicated by any other step; and where one of
them is as full as the instance lets it be, a command word is not accepted, and waits. How full that is, is the
instance's (log 12). -/
def Obligations.HostTakesTheOldestFirst : Prop :=
  (∀ (s : State) (rest : List HostAct),
    (s.host = .takeResponse :: rest →
      (s.responses = [] → step s = .next { s with host := rest }) ∧
      ∀ w ws, s.responses = w :: ws → step s = .next { s with responses := ws, host := rest }) ∧
    (s.host = .takePresent :: rest →
      (s.presents = [] → step s = .next { s with host := rest }) ∧
      ∀ r rs, s.presents = r :: rs → step s = .next { s with presents := rs, host := rest }) ∧
    (∀ w, s.host = .word w :: rest →
      s.params.responseDepth ≤ s.responses.length ∨ s.params.presentDepth ≤ s.presents.length → step s = .next s)) ∧
    ∀ s t : State, HostAct.reset ∉ s.host → HostAct.takeResponse ∉ s.host → HostAct.takePresent ∉ s.host →
      step s = .next t → s.responses <+: t.responses ∧ s.presents <+: t.presents

/-- 20_memory R88: at a command's end, the last of the host writes made to a byte since its header was sent leaves the
byte holding the host's value or the one the HBK left there, and the host's value outside the command's rectangle; a byte
no such write is to is as the HBK left it; each host read made since gives its free byte where the rectangle covers the
byte, and the byte itself elsewhere; nothing else changes. -/
def Obligations.RacedHostWriteEndsWithOneOfTwoValues : Prop :=
  ∀ (s : State) (touched : Option Rect), Memory.wf (memSize s.params) s.surf →
    (∃ m, s.settle touched = { s with
      surf := m
      hostReads := s.hostReads ++ s.late.filterMap fun a =>
        match a with
        | .read j v junk => some (if touched.any (fun r => r.coversIndex s.params j) then junk else v)
        | .write _ _ _ => none
      late := [] }) ∧
    (∀ j, NoWrite s.late j → (s.settle touched).surfRead j = s.surfRead j) ∧
    ∀ j b w pre post, s.late = pre ++ .write j b w :: post → NoWrite post j →
      ((s.settle touched).surfRead j = b ∨ (s.settle touched).surfRead j = s.surfRead j) ∧
      ((∀ r, touched = some r → r.coversIndex s.params j = false) → (s.settle touched).surfRead j = b)
end

