-- ==== Sys2Proof/Laws/Encoding.lean ====
section
/-! SUPPORT. The fields of a header that was built from fields, and the tables read both ways. -/
namespace Sys2Proof

variable (op : BitVec 8) (msel : BitVec 5) (ch : BitVec 2) (da : BitVec 1) (ridx : BitVec 5)

/-- The bits of a header that was built from fields (30_encoding R101). -/
theorem mkHeader_getLsbD (i : Nat) : (mkHeader op msel ch da ridx).getLsbD i =
    if i < 8 then op.getLsbD i
    else if i - 8 < 5 then msel.getLsbD (i - 8)
    else if i - 8 - 5 < 2 then ch.getLsbD (i - 8 - 5)
    else if i - 8 - 5 - 2 < 1 then da.getLsbD (i - 8 - 5 - 2)
    else ridx.getLsbD (i - 8 - 5 - 2 - 1) := by
  show @BitVec.getLsbD (43 + (5 + (1 + (2 + (5 + 8))))) (0#43 ++ (ridx ++ (da ++ (ch ++ (msel ++ op))))) i = _
  simp only [BitVec.getLsbD_append, BitVec.getLsbD_zero]
  by_cases c1 : i < 8
  · simp [c1, show i < 5 + (1 + (2 + (5 + 8))) by omega, show i < 1 + (2 + (5 + 8)) by omega,
      show i < 2 + (5 + 8) by omega, show i < 5 + 8 by omega]
  by_cases c2 : i - 8 < 5
  · simp [c1, c2, show i < 5 + (1 + (2 + (5 + 8))) by omega, show i < 1 + (2 + (5 + 8)) by omega,
      show i < 2 + (5 + 8) by omega, show i < 5 + 8 by omega]
  by_cases c3 : i - 8 - 5 < 2
  · simp [c1, c2, c3, show i < 5 + (1 + (2 + (5 + 8))) by omega, show i < 1 + (2 + (5 + 8)) by omega,
      show i < 2 + (5 + 8) by omega, show ¬ i < 5 + 8 by omega, show i - (5 + 8) = i - 8 - 5 by omega]
  by_cases c4 : i - 8 - 5 - 2 < 1
  · simp [c1, c2, c3, c4, show i < 5 + (1 + (2 + (5 + 8))) by omega, show i < 1 + (2 + (5 + 8)) by omega,
      show ¬ i < 2 + (5 + 8) by omega, show i - (2 + (5 + 8)) = i - 8 - 5 - 2 by omega]
  have e : i - (1 + (2 + (5 + 8))) = i - 8 - 5 - 2 - 1 := by omega
  by_cases c5 : i < 5 + (1 + (2 + (5 + 8)))
  · simp [c1, c2, c3, c4, c5, show ¬ i < 1 + (2 + (5 + 8)) by omega, e]
  · rw [if_neg c5, if_neg c1, if_neg c2, if_neg c3, if_neg c4]
    exact (BitVec.getLsbD_of_ge ridx _ (by omega)).symm

@[simp] theorem hdrOp_mkHeader : hdrOp (mkHeader op msel ch da ridx) = op := by
  apply BitVec.eq_of_getLsbD_eq
  intro i hi
  rw [hdrOp, BitVec.getLsbD_extractLsb', mkHeader_getLsbD]
  rw [if_pos (show 0 + i < 8 by omega), show 0 + i = i by omega]
  simp [hi]

@[simp] theorem hdrMsel_mkHeader : hdrMsel (mkHeader op msel ch da ridx) = msel := by
  apply BitVec.eq_of_getLsbD_eq
  intro i hi
  rw [hdrMsel, BitVec.getLsbD_extractLsb', mkHeader_getLsbD]
  rw [if_neg (show ¬ 8 + i < 8 by omega), if_pos (show 8 + i - 8 < 5 by omega), show 8 + i - 8 = i by omega]
  simp [hi]

@[simp] theorem hdrCh_mkHeader : hdrCh (mkHeader op msel ch da ridx) = ch := by
  apply BitVec.eq_of_getLsbD_eq
  intro i hi
  rw [hdrCh, BitVec.getLsbD_extractLsb', mkHeader_getLsbD]
  rw [if_neg (show ¬ 13 + i < 8 by omega), if_neg (show ¬ 13 + i - 8 < 5 by omega), if_pos (show 13 + i - 8 - 5 < 2 by omega), show 13 + i - 8 - 5 = i by omega]
  simp [hi]

@[simp] theorem hdrDa_mkHeader : hdrDa (mkHeader op msel ch da ridx) = da := by
  apply BitVec.eq_of_getLsbD_eq
  intro i hi
  rw [hdrDa, BitVec.getLsbD_extractLsb', mkHeader_getLsbD]
  rw [if_neg (show ¬ 15 + i < 8 by omega), if_neg (show ¬ 15 + i - 8 < 5 by omega), if_neg (show ¬ 15 + i - 8 - 5 < 2 by omega), if_pos (show 15 + i - 8 - 5 - 2 < 1 by omega), show 15 + i - 8 - 5 - 2 = i by omega]
  simp [hi]

@[simp] theorem hdrRidx_mkHeader : hdrRidx (mkHeader op msel ch da ridx) = ridx := by
  apply BitVec.eq_of_getLsbD_eq
  intro i hi
  rw [hdrRidx, BitVec.getLsbD_extractLsb', mkHeader_getLsbD]
  rw [if_neg (show ¬ 16 + i < 8 by omega), if_neg (show ¬ 16 + i - 8 < 5 by omega), if_neg (show ¬ 16 + i - 8 - 5 < 2 by omega), if_neg (show ¬ 16 + i - 8 - 5 - 2 < 1 by omega), show 16 + i - 8 - 5 - 2 - 1 = i by omega]
  simp [hi]

@[simp] theorem hdrReserved_mkHeader : hdrReserved (mkHeader op msel ch da ridx) = 0 := by
  apply BitVec.eq_of_getLsbD_eq
  intro i hi
  rw [hdrReserved, BitVec.getLsbD_extractLsb', mkHeader_getLsbD]
  rw [if_neg (show ¬ 21 + i < 8 by omega), if_neg (show ¬ 21 + i - 8 < 5 by omega), if_neg (show ¬ 21 + i - 8 - 5 < 2 by omega), if_neg (show ¬ 21 + i - 8 - 5 - 2 < 1 by omega), BitVec.getLsbD_of_ge ridx _ (by omega)]
  simp

/-- Two words with the same six fields are the same word. -/
theorem header_ext {v w : Word} (h1 : hdrOp v = hdrOp w) (h2 : hdrMsel v = hdrMsel w) (h3 : hdrCh v = hdrCh w)
    (h4 : hdrDa v = hdrDa w) (h5 : hdrRidx v = hdrRidx w) (h6 : hdrReserved v = hdrReserved w) : v = w := by
  have bit : ∀ {n : Nat} (start len : Nat), v.extractLsb' start len = w.extractLsb' start len → start ≤ n →
      n < start + len → v.getLsbD n = w.getLsbD n := by
    intro n start len h hl hu
    have := congrArg (fun x => x.getLsbD (n - start)) h
    simpa [BitVec.getLsbD_extractLsb', show n - start < len by omega, show start + (n - start) = n by omega] using this
  apply BitVec.eq_of_getLsbD_eq
  intro i hi
  by_cases c1 : i < 8
  · exact bit 0 8 h1 (by omega) (by omega)
  by_cases c2 : i < 13
  · exact bit 8 5 h2 (by omega) (by omega)
  by_cases c3 : i < 15
  · exact bit 13 2 h3 (by omega) (by omega)
  by_cases c4 : i < 16
  · exact bit 15 1 h4 (by omega) (by omega)
  by_cases c5 : i < 21
  · exact bit 16 5 h5 (by omega) (by omega)
  · exact bit 21 43 h6 (by omega) (by omega)

@[simp] theorem opOfCode_code (n : OpName) : opOfCode n.code = some n := by cases n <;> decide

theorem code_of_opOfCode {c : BitVec 8} {n : OpName} (h : opOfCode c = some n) : n.code = c := by
  have := List.find?_some h
  simpa using this

@[simp] theorem regOfIndex_index (r : Reg) : regOfIndex r.index = some r := by
  rcases r with _ | _ | _ | c | c | c | _ <;> first | decide | (cases c <;> decide)

theorem index_of_regOfIndex {k : BitVec 5} {r : Reg} (h : regOfIndex k = some r) : r.index = k := by
  have := List.find?_some h
  simpa using this

@[simp] theorem modeOfCode_code (m : BlendMode) : modeOfCode m.code = some m := by cases m <;> decide

theorem code_of_modeOfCode {k : BitVec 5} {m : BlendMode} (h : modeOfCode k = some m) : m.code = k := by
  have := List.find?_some h
  simpa using this

/-- The MSEL values with no mode are 20 to 31 (30_encoding R113). -/
theorem modeOfCode_eq_none (k : BitVec 5) : modeOfCode k = none ↔ 20 ≤ k.toNat := by
  revert k; decide

@[simp] theorem chanOfBits_bitsOfChan (c : Chan) : chanOfBits (bitsOfChan c) = c := by cases c <;> rfl

@[simp] theorem bitsOfChan_chanOfBits (k : BitVec 2) : bitsOfChan (chanOfBits k) = k := by revert k; decide

@[simp] theorem operandCount_code (n : OpName) : operandCount n.code = n.operands := by simp [operandCount]

/-! ## What decodes -/

theorem opOfCode_some {op : BitVec 8} {n : OpName} (h : opOfCode op = some n) : n.code = op := by
  have := List.find?_some h
  simpa using this

theorem decodePacket_none {hdr : Word} {ops : List Word} (h : opOfCode (hdrOp hdr) = none) :
    decodePacket hdr ops = .error .unknownOp := by
  unfold decodePacket
  rw [h]

theorem decodePacket_some {hdr : Word} {ops : List Word} {n : OpName} (h : opOfCode (hdrOp hdr) = some n) :
    decodePacket hdr ops =
      if hdrReserved hdr ≠ 0 then .error .reservedBits
      else if unusedFieldsZero n hdr = false then .error .unusedField
      else buildInstr n hdr ops := by
  unfold decodePacket
  rw [h]

/-- What a packet that decodes is: its OP is a command's, no reserved or unused bit is set, and its instruction is built
from the command's fields and operand words (30_encoding R114). -/
theorem decodePacket_ok {hdr : Word} {ops : List Word} {i : Instr} (h : decodePacket hdr ops = .ok i) :
    ∃ n, opOfCode (hdrOp hdr) = some n ∧ hdrReserved hdr = 0 ∧ unusedFieldsZero n hdr = true ∧
      buildInstr n hdr ops = .ok i := by
  cases hn : opOfCode (hdrOp hdr) with
  | none =>
    rw [decodePacket_none hn] at h
    contradiction
  | some n =>
    rw [decodePacket_some hn] at h
    by_cases h1 : hdrReserved hdr ≠ 0
    · rw [if_pos h1] at h
      contradiction
    · rw [if_neg h1] at h
      by_cases h2 : unusedFieldsZero n hdr = false
      · rw [if_pos h2] at h
        contradiction
      · rw [if_neg h2] at h
        exact ⟨n, rfl, not_not.1 h1, by simpa using h2, h⟩

theorem setmodeOf_opName (msel : BitVec 5) : (setmodeOf msel).opName = .setmode := by
  unfold setmodeOf
  split
  · rename_i m _
    cases m <;> rfl
  · rfl

/-- An instruction is built from exactly the operand words of its command, and is that command's. -/
theorem buildInstr_ok {n : OpName} {hdr : Word} {ops : List Word} {i : Instr} (h : buildInstr n hdr ops = .ok i) :
    ops.length = n.operands ∧ i.opName = n := by
  have h0 : ∀ j, take0 j ops = .ok i → ops.length = 0 ∧ i = j := by
    intro j h
    unfold take0 at h
    split at h <;> cases h
    exact ⟨rfl, rfl⟩
  have h1 : ∀ f, take1 f ops = .ok i → ops.length = 1 ∧ ∃ u, i = f u := by
    intro f h
    unfold take1 at h
    split at h <;> cases h
    exact ⟨rfl, _, rfl⟩
  have h2 : ∀ f, take2 f ops = .ok i → ops.length = 2 ∧ ∃ u v, i = f u v := by
    intro f h
    unfold take2 at h
    split at h <;> cases h
    exact ⟨rfl, _, _, rfl⟩
  have h4 : ∀ f, take4 f ops = .ok i → ops.length = 4 ∧ ∃ u v w x, i = f u v w x := by
    intro f h
    unfold take4 at h
    split at h <;> cases h
    exact ⟨rfl, _, _, _, _, rfl⟩
  have h6 : ∀ f, take6 f ops = .ok i → ops.length = 6 ∧ ∃ u v w x y z, i = f u v w x y z := by
    intro f h
    unfold take6 at h
    split at h <;> cases h
    exact ⟨rfl, _, _, _, _, _, _, rfl⟩
  cases n
  case nop =>
    obtain ⟨hl, rfl⟩ := h0 _ h
    exact ⟨hl, rfl⟩
  case setmode =>
    obtain ⟨hl, rfl⟩ := h0 _ h
    exact ⟨hl, setmodeOf_opName _⟩
  case setga =>
    obtain ⟨hl, u, rfl⟩ := h1 _ h
    exact ⟨hl, rfl⟩
  case setfill =>
    obtain ⟨hl, u, v, w, x, rfl⟩ := h4 _ h
    exact ⟨hl, by split <;> rfl⟩
  case blendpx =>
    obtain ⟨hl, u, v, w, x, y, z, rfl⟩ := h6 _ h
    exact ⟨hl, by split <;> rfl⟩
  case tonemapall =>
    obtain ⟨hl, rfl⟩ := h0 _ h
    exact ⟨hl, rfl⟩
  case setrange =>
    obtain ⟨hl, u, v, rfl⟩ := h2 _ h
    exact ⟨hl, rfl⟩
  case readpx =>
    obtain ⟨hl, u, v, rfl⟩ := h2 _ h
    exact ⟨hl, rfl⟩
  case mappx =>
    obtain ⟨hl, u, v, rfl⟩ := h2 _ h
    exact ⟨hl, rfl⟩
  case rdreg =>
    change takeReg _ _ = _ at h
    unfold takeReg at h
    split at h
    · obtain ⟨hl, rfl⟩ := h0 _ h
      exact ⟨hl, rfl⟩
    · cases h
  all_goals
    obtain ⟨hl, u, v, w, x, rfl⟩ := h4 _ h
    exact ⟨hl, rfl⟩

end Sys2Proof
end

