-- ==== Sys2Proof/Laws/Memory.lean ====
section
/-! SUPPORT. The laws of the sparse memories: a read after a write, the canonical form, equal reads make equal data. -/
namespace Sys2Proof.Machine

variable {n : Nat}

@[simp] theorem cellRead_nil (i : Nat) : cellRead ([] : List (Nat × BitVec n)) i = unlisted := rfl

theorem cellRead_of_not_mem {m : List (Nat × BitVec n)} {i : Nat} (h : ∀ c ∈ m, c.1 ≠ i) :
    cellRead m i = unlisted := by
  induction m with
  | nil => rfl
  | cons c rest ih =>
    have hc := h c (by simp)
    simp only [cellRead]
    rw [if_neg (fun e => hc e.symm)]
    exact ih (fun d hd => h d (by simp [hd]))

/-- Reading where a write went gives the value written. -/
theorem cellRead_write_same (m : List (Nat × BitVec n)) (hm : m.Pairwise (fun c d => c.1 < d.1)) (i : Nat)
    (v : BitVec n) : cellRead (cellWrite m i v) i = v := by
  induction m with
  | nil =>
    by_cases hv : v = unlisted <;> simp [cellWrite, cellRead, hv]
  | cons c rest ih =>
    obtain ⟨a, u⟩ := c
    have hrest := (List.pairwise_cons.mp hm).1
    have hp := (List.pairwise_cons.mp hm).2
    by_cases hlt : i < a
    · by_cases hv : v = unlisted
      · simp only [cellWrite, if_pos hlt, if_pos hv, cellRead]
        rw [if_neg (by omega), hv]
        exact cellRead_of_not_mem (fun c hc => by have := hrest c hc; simp only at this; omega)
      · simp [cellWrite, hlt, hv, cellRead]
    · by_cases he : i = a
      · subst he
        by_cases hv : v = unlisted
        · simp only [cellWrite, if_neg hlt, if_true, if_pos hv]
          rw [hv]
          exact cellRead_of_not_mem (fun c hc => by have := hrest c hc; simp only at this; omega)
        · simp [cellWrite, hv, cellRead]
      · simp only [cellWrite, if_neg hlt, if_neg he, cellRead]
        exact ih hp

/-- A write leaves every other place alone. -/
theorem cellRead_write_other (m : List (Nat × BitVec n)) {i j : Nat} (h : j ≠ i) (v : BitVec n) :
    cellRead (cellWrite m i v) j = cellRead m j := by
  induction m with
  | nil => by_cases hv : v = unlisted <;> simp [cellWrite, cellRead, hv, h]
  | cons c rest ih =>
    obtain ⟨a, u⟩ := c
    by_cases hlt : i < a
    · by_cases hv : v = unlisted <;> simp [cellWrite, hlt, hv, cellRead, h]
    · by_cases he : i = a
      · subst he
        by_cases hv : v = unlisted <;> simp [cellWrite, hv, cellRead, h]
      · simp only [cellWrite, if_neg hlt, if_neg he, cellRead, ih]

theorem mem_cellWrite {m : List (Nat × BitVec n)} {i : Nat} {v : BitVec n} {c : Nat × BitVec n}
    (h : c ∈ cellWrite m i v) : c ∈ m ∨ (c = (i, v) ∧ v ≠ unlisted) := by
  induction m with
  | nil => by_cases hv : v = unlisted <;> simp_all [cellWrite]
  | cons d rest ih =>
    obtain ⟨a, u⟩ := d
    by_cases hlt : i < a
    · by_cases hv : v = unlisted <;> simp_all [cellWrite] <;> tauto
    · by_cases he : i = a
      · subst he
        by_cases hv : v = unlisted <;> simp_all [cellWrite] <;> tauto
      · simp only [cellWrite, if_neg hlt, if_neg he, List.mem_cons] at h
        rcases h with h | h
        · exact .inl (by simp [h])
        · rcases ih h with h | h
          · exact .inl (by simp [h])
          · exact .inr h

theorem cellWrite_pairwise {m : List (Nat × BitVec n)} (hm : m.Pairwise (fun c d => c.1 < d.1)) (i : Nat)
    (v : BitVec n) : (cellWrite m i v).Pairwise (fun c d => c.1 < d.1) := by
  induction m with
  | nil => by_cases hv : v = unlisted <;> simp [cellWrite, hv]
  | cons d rest ih =>
    obtain ⟨a, u⟩ := d
    obtain ⟨h1, h2⟩ := List.pairwise_cons.mp hm
    by_cases hlt : i < a
    · by_cases hv : v = unlisted
      · simpa [cellWrite, hlt, hv] using hm
      · simp only [cellWrite, if_pos hlt, if_neg hv]
        refine List.pairwise_cons.mpr ⟨fun c hc => ?_, hm⟩
        rcases List.mem_cons.mp hc with rfl | hc
        · exact hlt
        · exact Nat.lt_trans hlt (h1 c hc)
    · by_cases he : i = a
      · subst he
        by_cases hv : v = unlisted
        · simpa [cellWrite, hv] using h2
        · simpa [cellWrite, hv] using List.pairwise_cons.mpr ⟨h1, h2⟩
      · simp only [cellWrite, if_neg hlt, if_neg he]
        refine List.pairwise_cons.mpr ⟨fun c hc => ?_, ih h2⟩
        rcases mem_cellWrite hc with hc | ⟨rfl, -⟩
        · exact h1 c hc
        · simp only; omega

/-- Every write at an index that exists keeps the form a memory is held in. -/
theorem cellWrite_wf {size : Nat} {m : List (Nat × BitVec n)} (hm : Memory.wf size m) {i : Nat} (hi : i < size)
    (v : BitVec n) : Memory.wf size (cellWrite m i v) := by
  refine ⟨cellWrite_pairwise hm.1 i v, fun c hc => ?_⟩
  rcases mem_cellWrite hc with h | ⟨rfl, h⟩
  · exact hm.2 c h
  · exact ⟨h, hi⟩

theorem memory_wf_nil (size : Nat) : Memory.wf size ([] : List (Nat × BitVec n)) :=
  ⟨List.Pairwise.nil, by simp⟩

theorem cellRead_of_mem {m : List (Nat × BitVec n)} (hm : m.Pairwise (fun c d => c.1 < d.1)) {c : Nat × BitVec n}
    (hc : c ∈ m) : cellRead m c.1 = c.2 := by
  induction m with
  | nil => simp at hc
  | cons d rest ih =>
    obtain ⟨h1, h2⟩ := List.pairwise_cons.mp hm
    rcases List.mem_cons.mp hc with rfl | hc
    · simp [cellRead]
    · have := h1 c hc
      simp only [cellRead]
      rw [if_neg (by omega)]
      exact ih h2 hc

/-- Two memories in their form that read the same everywhere are the same data. -/
theorem memory_ext {size : Nat} {m m' : List (Nat × BitVec n)} (hm : Memory.wf size m) (hm' : Memory.wf size m')
    (h : ∀ i, cellRead m i = cellRead m' i) : m = m' := by
  have key : ∀ {a b : List (Nat × BitVec n)}, Memory.wf size a → Memory.wf size b →
      (∀ i, cellRead a i = cellRead b i) → ∀ c ∈ a, c ∈ b := by
    intro a b ha hb hab c hc
    by_contra hne
    have h1 := cellRead_of_mem ha.1 hc
    by_cases hex : ∃ d ∈ b, d.1 = c.1
    · obtain ⟨d, hd, hdc⟩ := hex
      have h2 := cellRead_of_mem hb.1 hd
      rw [hdc, ← hab, h1] at h2
      exact hne (by rwa [show c = d from Prod.ext hdc.symm h2])
    · have h2 : cellRead b c.1 = unlisted := cellRead_of_not_mem (fun d hd he => hex ⟨d, hd, he⟩)
      rw [← hab, h1] at h2
      exact (ha.2 c hc).1 h2
  refine List.Perm.eq_of_pairwise (fun a b _ _ hab hba => absurd hab (by omega)) hm.1 hm'.1
    ((List.perm_ext_iff_of_nodup ?_ ?_).mpr fun c => ⟨key hm hm' h c, key hm' hm (fun i => (h i).symm) c⟩)
  · exact hm.1.imp (fun {a b} (hlt : a.1 < b.1) (he : a = b) => by rw [he] at hlt; omega)
  · exact hm'.1.imp (fun {a b} (hlt : a.1 < b.1) (he : a = b) => by rw [he] at hlt; omega)

/-- Two writes at different places may change places. -/
theorem cellWrite_comm {size : Nat} {m : List (Nat × BitVec n)} (hm : Memory.wf size m) {i j : Nat} (hi : i < size)
    (hj : j < size) (hne : i ≠ j) (v w : BitVec n) :
    cellWrite (cellWrite m i v) j w = cellWrite (cellWrite m j w) i v := by
  have h1 := cellWrite_wf (cellWrite_wf hm hi v) hj w
  have h2 := cellWrite_wf (cellWrite_wf hm hj w) hi v
  refine memory_ext h1 h2 fun k => ?_
  by_cases hki : k = i
  · subst hki
    rw [cellRead_write_other _ hne, cellRead_write_same _ hm.1, cellRead_write_same _ (cellWrite_wf hm hj w).1]
  · by_cases hkj : k = j
    · subst hkj
      rw [cellRead_write_same _ (cellWrite_wf hm hi v).1, cellRead_write_other _ hki, cellRead_write_same _ hm.1]
    · rw [cellRead_write_other _ hkj, cellRead_write_other _ hki, cellRead_write_other _ hki,
        cellRead_write_other _ hkj]

end Sys2Proof.Machine
end

