-- ==== Sys2Proof/Laws/State.lean ====
section
/-! SUPPORT. One lemma for each field and each named update of State, so that no proof unfolds an update. -/
namespace Sys2Proof.Machine

@[simp] theorem State.hdrWrite_params (s : State) (i : Nat) (v : Elem) : (s.hdrWrite i v).params = s.params := rfl
@[simp] theorem State.hdrWrite_cpos (s : State) (i : Nat) (v : Elem) : (s.hdrWrite i v).cpos = s.cpos := rfl
@[simp] theorem State.hdrWrite_dstate (s : State) (i : Nat) (v : Elem) : (s.hdrWrite i v).dstate = s.dstate := rfl
@[simp] theorem State.hdrWrite_status (s : State) (i : Nat) (v : Elem) : (s.hdrWrite i v).status = s.status := rfl
@[simp] theorem State.hdrWrite_mode (s : State) (i : Nat) (v : Elem) : (s.hdrWrite i v).mode = s.mode := rfl
@[simp] theorem State.hdrWrite_galpha (s : State) (i : Nat) (v : Elem) : (s.hdrWrite i v).galpha = s.galpha := rfl
@[simp] theorem State.hdrWrite_rlo (s : State) (i : Nat) (v : Elem) : (s.hdrWrite i v).rlo = s.rlo := rfl
@[simp] theorem State.hdrWrite_rhi (s : State) (i : Nat) (v : Elem) : (s.hdrWrite i v).rhi = s.rhi := rfl
@[simp] theorem State.hdrWrite_fill (s : State) (i : Nat) (v : Elem) : (s.hdrWrite i v).fill = s.fill := rfl
@[simp] theorem State.hdrWrite_hdr (s : State) (i : Nat) (v : Elem) : (s.hdrWrite i v).hdr = cellWrite s.hdr i v := rfl
@[simp] theorem State.hdrWrite_surf (s : State) (i : Nat) (v : Elem) : (s.hdrWrite i v).surf = s.surf := rfl
@[simp] theorem State.hdrWrite_responses (s : State) (i : Nat) (v : Elem) : (s.hdrWrite i v).responses = s.responses := rfl
@[simp] theorem State.hdrWrite_presents (s : State) (i : Nat) (v : Elem) : (s.hdrWrite i v).presents = s.presents := rfl
@[simp] theorem State.hdrWrite_faultInfo (s : State) (i : Nat) (v : Elem) : (s.hdrWrite i v).faultInfo = s.faultInfo := rfl
@[simp] theorem State.hdrWrite_host (s : State) (i : Nat) (v : Elem) : (s.hdrWrite i v).host = s.host := rfl
@[simp] theorem State.hdrWrite_hostReads (s : State) (i : Nat) (v : Elem) : (s.hdrWrite i v).hostReads = s.hostReads := rfl
@[simp] theorem State.hdrWrite_late (s : State) (i : Nat) (v : Elem) : (s.hdrWrite i v).late = s.late := rfl
@[simp] theorem State.hdrWrite_draws (s : State) (i : Nat) (v : Elem) : (s.hdrWrite i v).draws = s.draws := rfl

@[simp] theorem State.surfWrite_params (s : State) (j : Nat) (b : Byte) : (s.surfWrite j b).params = s.params := rfl
@[simp] theorem State.surfWrite_cpos (s : State) (j : Nat) (b : Byte) : (s.surfWrite j b).cpos = s.cpos := rfl
@[simp] theorem State.surfWrite_dstate (s : State) (j : Nat) (b : Byte) : (s.surfWrite j b).dstate = s.dstate := rfl
@[simp] theorem State.surfWrite_status (s : State) (j : Nat) (b : Byte) : (s.surfWrite j b).status = s.status := rfl
@[simp] theorem State.surfWrite_mode (s : State) (j : Nat) (b : Byte) : (s.surfWrite j b).mode = s.mode := rfl
@[simp] theorem State.surfWrite_galpha (s : State) (j : Nat) (b : Byte) : (s.surfWrite j b).galpha = s.galpha := rfl
@[simp] theorem State.surfWrite_rlo (s : State) (j : Nat) (b : Byte) : (s.surfWrite j b).rlo = s.rlo := rfl
@[simp] theorem State.surfWrite_rhi (s : State) (j : Nat) (b : Byte) : (s.surfWrite j b).rhi = s.rhi := rfl
@[simp] theorem State.surfWrite_fill (s : State) (j : Nat) (b : Byte) : (s.surfWrite j b).fill = s.fill := rfl
@[simp] theorem State.surfWrite_hdr (s : State) (j : Nat) (b : Byte) : (s.surfWrite j b).hdr = s.hdr := rfl
@[simp] theorem State.surfWrite_surf (s : State) (j : Nat) (b : Byte) : (s.surfWrite j b).surf = cellWrite s.surf j b := rfl
@[simp] theorem State.surfWrite_responses (s : State) (j : Nat) (b : Byte) : (s.surfWrite j b).responses = s.responses := rfl
@[simp] theorem State.surfWrite_presents (s : State) (j : Nat) (b : Byte) : (s.surfWrite j b).presents = s.presents := rfl
@[simp] theorem State.surfWrite_faultInfo (s : State) (j : Nat) (b : Byte) : (s.surfWrite j b).faultInfo = s.faultInfo := rfl
@[simp] theorem State.surfWrite_host (s : State) (j : Nat) (b : Byte) : (s.surfWrite j b).host = s.host := rfl
@[simp] theorem State.surfWrite_hostReads (s : State) (j : Nat) (b : Byte) : (s.surfWrite j b).hostReads = s.hostReads := rfl
@[simp] theorem State.surfWrite_late (s : State) (j : Nat) (b : Byte) : (s.surfWrite j b).late = s.late := rfl
@[simp] theorem State.surfWrite_draws (s : State) (j : Nat) (b : Byte) : (s.surfWrite j b).draws = s.draws := rfl

@[simp] theorem State.setMode_params (s : State) (m : BlendMode) : (s.setMode m).params = s.params := rfl
@[simp] theorem State.setMode_cpos (s : State) (m : BlendMode) : (s.setMode m).cpos = s.cpos := rfl
@[simp] theorem State.setMode_dstate (s : State) (m : BlendMode) : (s.setMode m).dstate = s.dstate := rfl
@[simp] theorem State.setMode_status (s : State) (m : BlendMode) : (s.setMode m).status = s.status := rfl
@[simp] theorem State.setMode_mode (s : State) (m : BlendMode) : (s.setMode m).mode = m := rfl
@[simp] theorem State.setMode_galpha (s : State) (m : BlendMode) : (s.setMode m).galpha = s.galpha := rfl
@[simp] theorem State.setMode_rlo (s : State) (m : BlendMode) : (s.setMode m).rlo = s.rlo := rfl
@[simp] theorem State.setMode_rhi (s : State) (m : BlendMode) : (s.setMode m).rhi = s.rhi := rfl
@[simp] theorem State.setMode_fill (s : State) (m : BlendMode) : (s.setMode m).fill = s.fill := rfl
@[simp] theorem State.setMode_hdr (s : State) (m : BlendMode) : (s.setMode m).hdr = s.hdr := rfl
@[simp] theorem State.setMode_surf (s : State) (m : BlendMode) : (s.setMode m).surf = s.surf := rfl
@[simp] theorem State.setMode_responses (s : State) (m : BlendMode) : (s.setMode m).responses = s.responses := rfl
@[simp] theorem State.setMode_presents (s : State) (m : BlendMode) : (s.setMode m).presents = s.presents := rfl
@[simp] theorem State.setMode_faultInfo (s : State) (m : BlendMode) : (s.setMode m).faultInfo = s.faultInfo := rfl
@[simp] theorem State.setMode_host (s : State) (m : BlendMode) : (s.setMode m).host = s.host := rfl
@[simp] theorem State.setMode_hostReads (s : State) (m : BlendMode) : (s.setMode m).hostReads = s.hostReads := rfl
@[simp] theorem State.setMode_late (s : State) (m : BlendMode) : (s.setMode m).late = s.late := rfl
@[simp] theorem State.setMode_draws (s : State) (m : BlendMode) : (s.setMode m).draws = s.draws := rfl

@[simp] theorem State.setGalpha_params (s : State) (w : Word) : (s.setGalpha w).params = s.params := rfl
@[simp] theorem State.setGalpha_cpos (s : State) (w : Word) : (s.setGalpha w).cpos = s.cpos := rfl
@[simp] theorem State.setGalpha_dstate (s : State) (w : Word) : (s.setGalpha w).dstate = s.dstate := rfl
@[simp] theorem State.setGalpha_status (s : State) (w : Word) : (s.setGalpha w).status = s.status := rfl
@[simp] theorem State.setGalpha_mode (s : State) (w : Word) : (s.setGalpha w).mode = s.mode := rfl
@[simp] theorem State.setGalpha_galpha (s : State) (w : Word) : (s.setGalpha w).galpha = w := rfl
@[simp] theorem State.setGalpha_rlo (s : State) (w : Word) : (s.setGalpha w).rlo = s.rlo := rfl
@[simp] theorem State.setGalpha_rhi (s : State) (w : Word) : (s.setGalpha w).rhi = s.rhi := rfl
@[simp] theorem State.setGalpha_fill (s : State) (w : Word) : (s.setGalpha w).fill = s.fill := rfl
@[simp] theorem State.setGalpha_hdr (s : State) (w : Word) : (s.setGalpha w).hdr = s.hdr := rfl
@[simp] theorem State.setGalpha_surf (s : State) (w : Word) : (s.setGalpha w).surf = s.surf := rfl
@[simp] theorem State.setGalpha_responses (s : State) (w : Word) : (s.setGalpha w).responses = s.responses := rfl
@[simp] theorem State.setGalpha_presents (s : State) (w : Word) : (s.setGalpha w).presents = s.presents := rfl
@[simp] theorem State.setGalpha_faultInfo (s : State) (w : Word) : (s.setGalpha w).faultInfo = s.faultInfo := rfl
@[simp] theorem State.setGalpha_host (s : State) (w : Word) : (s.setGalpha w).host = s.host := rfl
@[simp] theorem State.setGalpha_hostReads (s : State) (w : Word) : (s.setGalpha w).hostReads = s.hostReads := rfl
@[simp] theorem State.setGalpha_late (s : State) (w : Word) : (s.setGalpha w).late = s.late := rfl
@[simp] theorem State.setGalpha_draws (s : State) (w : Word) : (s.setGalpha w).draws = s.draws := rfl

@[simp] theorem State.setRange_params (s : State) (c : Chan) (lo hi : Word) : (s.setRange c lo hi).params = s.params := rfl
@[simp] theorem State.setRange_cpos (s : State) (c : Chan) (lo hi : Word) : (s.setRange c lo hi).cpos = s.cpos := rfl
@[simp] theorem State.setRange_dstate (s : State) (c : Chan) (lo hi : Word) : (s.setRange c lo hi).dstate = s.dstate := rfl
@[simp] theorem State.setRange_status (s : State) (c : Chan) (lo hi : Word) : (s.setRange c lo hi).status = s.status := rfl
@[simp] theorem State.setRange_mode (s : State) (c : Chan) (lo hi : Word) : (s.setRange c lo hi).mode = s.mode := rfl
@[simp] theorem State.setRange_galpha (s : State) (c : Chan) (lo hi : Word) : (s.setRange c lo hi).galpha = s.galpha := rfl
@[simp] theorem State.setRange_rlo (s : State) (c : Chan) (lo hi : Word) : (s.setRange c lo hi).rlo = s.rlo.set c lo := rfl
@[simp] theorem State.setRange_rhi (s : State) (c : Chan) (lo hi : Word) : (s.setRange c lo hi).rhi = s.rhi.set c hi := rfl
@[simp] theorem State.setRange_fill (s : State) (c : Chan) (lo hi : Word) : (s.setRange c lo hi).fill = s.fill := rfl
@[simp] theorem State.setRange_hdr (s : State) (c : Chan) (lo hi : Word) : (s.setRange c lo hi).hdr = s.hdr := rfl
@[simp] theorem State.setRange_surf (s : State) (c : Chan) (lo hi : Word) : (s.setRange c lo hi).surf = s.surf := rfl
@[simp] theorem State.setRange_responses (s : State) (c : Chan) (lo hi : Word) : (s.setRange c lo hi).responses = s.responses := rfl
@[simp] theorem State.setRange_presents (s : State) (c : Chan) (lo hi : Word) : (s.setRange c lo hi).presents = s.presents := rfl
@[simp] theorem State.setRange_faultInfo (s : State) (c : Chan) (lo hi : Word) : (s.setRange c lo hi).faultInfo = s.faultInfo := rfl
@[simp] theorem State.setRange_host (s : State) (c : Chan) (lo hi : Word) : (s.setRange c lo hi).host = s.host := rfl
@[simp] theorem State.setRange_hostReads (s : State) (c : Chan) (lo hi : Word) : (s.setRange c lo hi).hostReads = s.hostReads := rfl
@[simp] theorem State.setRange_late (s : State) (c : Chan) (lo hi : Word) : (s.setRange c lo hi).late = s.late := rfl
@[simp] theorem State.setRange_draws (s : State) (c : Chan) (lo hi : Word) : (s.setRange c lo hi).draws = s.draws := rfl

@[simp] theorem State.setFill_params (s : State) (q : Quad Word) : (s.setFill q).params = s.params := rfl
@[simp] theorem State.setFill_cpos (s : State) (q : Quad Word) : (s.setFill q).cpos = s.cpos := rfl
@[simp] theorem State.setFill_dstate (s : State) (q : Quad Word) : (s.setFill q).dstate = s.dstate := rfl
@[simp] theorem State.setFill_status (s : State) (q : Quad Word) : (s.setFill q).status = s.status := rfl
@[simp] theorem State.setFill_mode (s : State) (q : Quad Word) : (s.setFill q).mode = s.mode := rfl
@[simp] theorem State.setFill_galpha (s : State) (q : Quad Word) : (s.setFill q).galpha = s.galpha := rfl
@[simp] theorem State.setFill_rlo (s : State) (q : Quad Word) : (s.setFill q).rlo = s.rlo := rfl
@[simp] theorem State.setFill_rhi (s : State) (q : Quad Word) : (s.setFill q).rhi = s.rhi := rfl
@[simp] theorem State.setFill_fill (s : State) (q : Quad Word) : (s.setFill q).fill = q := rfl
@[simp] theorem State.setFill_hdr (s : State) (q : Quad Word) : (s.setFill q).hdr = s.hdr := rfl
@[simp] theorem State.setFill_surf (s : State) (q : Quad Word) : (s.setFill q).surf = s.surf := rfl
@[simp] theorem State.setFill_responses (s : State) (q : Quad Word) : (s.setFill q).responses = s.responses := rfl
@[simp] theorem State.setFill_presents (s : State) (q : Quad Word) : (s.setFill q).presents = s.presents := rfl
@[simp] theorem State.setFill_faultInfo (s : State) (q : Quad Word) : (s.setFill q).faultInfo = s.faultInfo := rfl
@[simp] theorem State.setFill_host (s : State) (q : Quad Word) : (s.setFill q).host = s.host := rfl
@[simp] theorem State.setFill_hostReads (s : State) (q : Quad Word) : (s.setFill q).hostReads = s.hostReads := rfl
@[simp] theorem State.setFill_late (s : State) (q : Quad Word) : (s.setFill q).late = s.late := rfl
@[simp] theorem State.setFill_draws (s : State) (q : Quad Word) : (s.setFill q).draws = s.draws := rfl

@[simp] theorem State.respond_params (s : State) (ws : List Word) : (s.respond ws).params = s.params := rfl
@[simp] theorem State.respond_cpos (s : State) (ws : List Word) : (s.respond ws).cpos = s.cpos := rfl
@[simp] theorem State.respond_dstate (s : State) (ws : List Word) : (s.respond ws).dstate = s.dstate := rfl
@[simp] theorem State.respond_status (s : State) (ws : List Word) : (s.respond ws).status = s.status := rfl
@[simp] theorem State.respond_mode (s : State) (ws : List Word) : (s.respond ws).mode = s.mode := rfl
@[simp] theorem State.respond_galpha (s : State) (ws : List Word) : (s.respond ws).galpha = s.galpha := rfl
@[simp] theorem State.respond_rlo (s : State) (ws : List Word) : (s.respond ws).rlo = s.rlo := rfl
@[simp] theorem State.respond_rhi (s : State) (ws : List Word) : (s.respond ws).rhi = s.rhi := rfl
@[simp] theorem State.respond_fill (s : State) (ws : List Word) : (s.respond ws).fill = s.fill := rfl
@[simp] theorem State.respond_hdr (s : State) (ws : List Word) : (s.respond ws).hdr = s.hdr := rfl
@[simp] theorem State.respond_surf (s : State) (ws : List Word) : (s.respond ws).surf = s.surf := rfl
@[simp] theorem State.respond_responses (s : State) (ws : List Word) : (s.respond ws).responses = s.responses ++ ws := rfl
@[simp] theorem State.respond_presents (s : State) (ws : List Word) : (s.respond ws).presents = s.presents := rfl
@[simp] theorem State.respond_faultInfo (s : State) (ws : List Word) : (s.respond ws).faultInfo = s.faultInfo := rfl
@[simp] theorem State.respond_host (s : State) (ws : List Word) : (s.respond ws).host = s.host := rfl
@[simp] theorem State.respond_hostReads (s : State) (ws : List Word) : (s.respond ws).hostReads = s.hostReads := rfl
@[simp] theorem State.respond_late (s : State) (ws : List Word) : (s.respond ws).late = s.late := rfl
@[simp] theorem State.respond_draws (s : State) (ws : List Word) : (s.respond ws).draws = s.draws := rfl

@[simp] theorem State.present_params (s : State) (r : Rect) : (s.present r).params = s.params := rfl
@[simp] theorem State.present_cpos (s : State) (r : Rect) : (s.present r).cpos = s.cpos := rfl
@[simp] theorem State.present_dstate (s : State) (r : Rect) : (s.present r).dstate = s.dstate := rfl
@[simp] theorem State.present_status (s : State) (r : Rect) : (s.present r).status = s.status := rfl
@[simp] theorem State.present_mode (s : State) (r : Rect) : (s.present r).mode = s.mode := rfl
@[simp] theorem State.present_galpha (s : State) (r : Rect) : (s.present r).galpha = s.galpha := rfl
@[simp] theorem State.present_rlo (s : State) (r : Rect) : (s.present r).rlo = s.rlo := rfl
@[simp] theorem State.present_rhi (s : State) (r : Rect) : (s.present r).rhi = s.rhi := rfl
@[simp] theorem State.present_fill (s : State) (r : Rect) : (s.present r).fill = s.fill := rfl
@[simp] theorem State.present_hdr (s : State) (r : Rect) : (s.present r).hdr = s.hdr := rfl
@[simp] theorem State.present_surf (s : State) (r : Rect) : (s.present r).surf = s.surf := rfl
@[simp] theorem State.present_responses (s : State) (r : Rect) : (s.present r).responses = s.responses := rfl
@[simp] theorem State.present_presents (s : State) (r : Rect) : (s.present r).presents = s.presents ++ [r] := rfl
@[simp] theorem State.present_faultInfo (s : State) (r : Rect) : (s.present r).faultInfo = s.faultInfo := rfl
@[simp] theorem State.present_host (s : State) (r : Rect) : (s.present r).host = s.host := rfl
@[simp] theorem State.present_hostReads (s : State) (r : Rect) : (s.present r).hostReads = s.hostReads := rfl
@[simp] theorem State.present_late (s : State) (r : Rect) : (s.present r).late = s.late := rfl
@[simp] theorem State.present_draws (s : State) (r : Rect) : (s.present r).draws = s.draws := rfl

@[simp] theorem State.tick_params (s : State) : (s.tick).params = s.params := rfl
@[simp] theorem State.tick_cpos (s : State) : (s.tick).cpos = s.cpos := rfl
@[simp] theorem State.tick_dstate (s : State) : (s.tick).dstate = s.dstate := rfl
@[simp] theorem State.tick_status (s : State) : (s.tick).status = s.status := rfl
@[simp] theorem State.tick_mode (s : State) : (s.tick).mode = s.mode := rfl
@[simp] theorem State.tick_galpha (s : State) : (s.tick).galpha = s.galpha := rfl
@[simp] theorem State.tick_rlo (s : State) : (s.tick).rlo = s.rlo := rfl
@[simp] theorem State.tick_rhi (s : State) : (s.tick).rhi = s.rhi := rfl
@[simp] theorem State.tick_fill (s : State) : (s.tick).fill = s.fill := rfl
@[simp] theorem State.tick_hdr (s : State) : (s.tick).hdr = s.hdr := rfl
@[simp] theorem State.tick_surf (s : State) : (s.tick).surf = s.surf := rfl
@[simp] theorem State.tick_responses (s : State) : (s.tick).responses = s.responses := rfl
@[simp] theorem State.tick_presents (s : State) : (s.tick).presents = s.presents := rfl
@[simp] theorem State.tick_faultInfo (s : State) : (s.tick).faultInfo = s.faultInfo := rfl
@[simp] theorem State.tick_host (s : State) : (s.tick).host = s.host := rfl
@[simp] theorem State.tick_hostReads (s : State) : (s.tick).hostReads = s.hostReads := rfl
@[simp] theorem State.tick_late (s : State) : (s.tick).late = s.late := rfl
@[simp] theorem State.tick_draws (s : State) : (s.tick).draws = s.draws + 1 := rfl

@[simp] theorem State.raise_params (s : State) (f : FaultInfo) (op : BitVec 8) : (s.raise f op).params = s.params := rfl
@[simp] theorem State.raise_cpos (s : State) (f : FaultInfo) (op : BitVec 8) : (s.raise f op).cpos = s.cpos := rfl
@[simp] theorem State.raise_dstate (s : State) (f : FaultInfo) (op : BitVec 8) : (s.raise f op).dstate = s.dstate := rfl
@[simp] theorem State.raise_status (s : State) (f : FaultInfo) (op : BitVec 8) : (s.raise f op).status = { fcode := f.code, halted := true, fop := op } := rfl
@[simp] theorem State.raise_mode (s : State) (f : FaultInfo) (op : BitVec 8) : (s.raise f op).mode = s.mode := rfl
@[simp] theorem State.raise_galpha (s : State) (f : FaultInfo) (op : BitVec 8) : (s.raise f op).galpha = s.galpha := rfl
@[simp] theorem State.raise_rlo (s : State) (f : FaultInfo) (op : BitVec 8) : (s.raise f op).rlo = s.rlo := rfl
@[simp] theorem State.raise_rhi (s : State) (f : FaultInfo) (op : BitVec 8) : (s.raise f op).rhi = s.rhi := rfl
@[simp] theorem State.raise_fill (s : State) (f : FaultInfo) (op : BitVec 8) : (s.raise f op).fill = s.fill := rfl
@[simp] theorem State.raise_hdr (s : State) (f : FaultInfo) (op : BitVec 8) : (s.raise f op).hdr = s.hdr := rfl
@[simp] theorem State.raise_surf (s : State) (f : FaultInfo) (op : BitVec 8) : (s.raise f op).surf = s.surf := rfl
@[simp] theorem State.raise_responses (s : State) (f : FaultInfo) (op : BitVec 8) : (s.raise f op).responses = s.responses := rfl
@[simp] theorem State.raise_presents (s : State) (f : FaultInfo) (op : BitVec 8) : (s.raise f op).presents = s.presents := rfl
@[simp] theorem State.raise_faultInfo (s : State) (f : FaultInfo) (op : BitVec 8) : (s.raise f op).faultInfo = some f := rfl
@[simp] theorem State.raise_host (s : State) (f : FaultInfo) (op : BitVec 8) : (s.raise f op).host = s.host := rfl
@[simp] theorem State.raise_hostReads (s : State) (f : FaultInfo) (op : BitVec 8) : (s.raise f op).hostReads = s.hostReads := rfl
@[simp] theorem State.raise_late (s : State) (f : FaultInfo) (op : BitVec 8) : (s.raise f op).late = s.late := rfl
@[simp] theorem State.raise_draws (s : State) (f : FaultInfo) (op : BitVec 8) : (s.raise f op).draws = s.draws := rfl

@[simp] theorem State.queueLate_params (s : State) (a : LateAccess) : (s.queueLate a).params = s.params := rfl
@[simp] theorem State.queueLate_cpos (s : State) (a : LateAccess) : (s.queueLate a).cpos = s.cpos := rfl
@[simp] theorem State.queueLate_dstate (s : State) (a : LateAccess) : (s.queueLate a).dstate = s.dstate := rfl
@[simp] theorem State.queueLate_status (s : State) (a : LateAccess) : (s.queueLate a).status = s.status := rfl
@[simp] theorem State.queueLate_mode (s : State) (a : LateAccess) : (s.queueLate a).mode = s.mode := rfl
@[simp] theorem State.queueLate_galpha (s : State) (a : LateAccess) : (s.queueLate a).galpha = s.galpha := rfl
@[simp] theorem State.queueLate_rlo (s : State) (a : LateAccess) : (s.queueLate a).rlo = s.rlo := rfl
@[simp] theorem State.queueLate_rhi (s : State) (a : LateAccess) : (s.queueLate a).rhi = s.rhi := rfl
@[simp] theorem State.queueLate_fill (s : State) (a : LateAccess) : (s.queueLate a).fill = s.fill := rfl
@[simp] theorem State.queueLate_hdr (s : State) (a : LateAccess) : (s.queueLate a).hdr = s.hdr := rfl
@[simp] theorem State.queueLate_surf (s : State) (a : LateAccess) : (s.queueLate a).surf = s.surf := rfl
@[simp] theorem State.queueLate_responses (s : State) (a : LateAccess) : (s.queueLate a).responses = s.responses := rfl
@[simp] theorem State.queueLate_presents (s : State) (a : LateAccess) : (s.queueLate a).presents = s.presents := rfl
@[simp] theorem State.queueLate_faultInfo (s : State) (a : LateAccess) : (s.queueLate a).faultInfo = s.faultInfo := rfl
@[simp] theorem State.queueLate_host (s : State) (a : LateAccess) : (s.queueLate a).host = s.host := rfl
@[simp] theorem State.queueLate_hostReads (s : State) (a : LateAccess) : (s.queueLate a).hostReads = s.hostReads := rfl
@[simp] theorem State.queueLate_late (s : State) (a : LateAccess) : (s.queueLate a).late = s.late ++ [a] := rfl
@[simp] theorem State.queueLate_draws (s : State) (a : LateAccess) : (s.queueLate a).draws = s.draws := rfl

@[simp] theorem State.giveByte_params (s : State) (b : Byte) : (s.giveByte b).params = s.params := rfl
@[simp] theorem State.giveByte_cpos (s : State) (b : Byte) : (s.giveByte b).cpos = s.cpos := rfl
@[simp] theorem State.giveByte_dstate (s : State) (b : Byte) : (s.giveByte b).dstate = s.dstate := rfl
@[simp] theorem State.giveByte_status (s : State) (b : Byte) : (s.giveByte b).status = s.status := rfl
@[simp] theorem State.giveByte_mode (s : State) (b : Byte) : (s.giveByte b).mode = s.mode := rfl
@[simp] theorem State.giveByte_galpha (s : State) (b : Byte) : (s.giveByte b).galpha = s.galpha := rfl
@[simp] theorem State.giveByte_rlo (s : State) (b : Byte) : (s.giveByte b).rlo = s.rlo := rfl
@[simp] theorem State.giveByte_rhi (s : State) (b : Byte) : (s.giveByte b).rhi = s.rhi := rfl
@[simp] theorem State.giveByte_fill (s : State) (b : Byte) : (s.giveByte b).fill = s.fill := rfl
@[simp] theorem State.giveByte_hdr (s : State) (b : Byte) : (s.giveByte b).hdr = s.hdr := rfl
@[simp] theorem State.giveByte_surf (s : State) (b : Byte) : (s.giveByte b).surf = s.surf := rfl
@[simp] theorem State.giveByte_responses (s : State) (b : Byte) : (s.giveByte b).responses = s.responses := rfl
@[simp] theorem State.giveByte_presents (s : State) (b : Byte) : (s.giveByte b).presents = s.presents := rfl
@[simp] theorem State.giveByte_faultInfo (s : State) (b : Byte) : (s.giveByte b).faultInfo = s.faultInfo := rfl
@[simp] theorem State.giveByte_host (s : State) (b : Byte) : (s.giveByte b).host = s.host := rfl
@[simp] theorem State.giveByte_hostReads (s : State) (b : Byte) : (s.giveByte b).hostReads = s.hostReads ++ [b] := rfl
@[simp] theorem State.giveByte_late (s : State) (b : Byte) : (s.giveByte b).late = s.late := rfl
@[simp] theorem State.giveByte_draws (s : State) (b : Byte) : (s.giveByte b).draws = s.draws := rfl

@[simp] theorem State.takeResponse_params (s : State) : (s.takeResponse).params = s.params := rfl
@[simp] theorem State.takeResponse_cpos (s : State) : (s.takeResponse).cpos = s.cpos := rfl
@[simp] theorem State.takeResponse_dstate (s : State) : (s.takeResponse).dstate = s.dstate := rfl
@[simp] theorem State.takeResponse_status (s : State) : (s.takeResponse).status = s.status := rfl
@[simp] theorem State.takeResponse_mode (s : State) : (s.takeResponse).mode = s.mode := rfl
@[simp] theorem State.takeResponse_galpha (s : State) : (s.takeResponse).galpha = s.galpha := rfl
@[simp] theorem State.takeResponse_rlo (s : State) : (s.takeResponse).rlo = s.rlo := rfl
@[simp] theorem State.takeResponse_rhi (s : State) : (s.takeResponse).rhi = s.rhi := rfl
@[simp] theorem State.takeResponse_fill (s : State) : (s.takeResponse).fill = s.fill := rfl
@[simp] theorem State.takeResponse_hdr (s : State) : (s.takeResponse).hdr = s.hdr := rfl
@[simp] theorem State.takeResponse_surf (s : State) : (s.takeResponse).surf = s.surf := rfl
@[simp] theorem State.takeResponse_responses (s : State) : (s.takeResponse).responses = s.responses.tail := rfl
@[simp] theorem State.takeResponse_presents (s : State) : (s.takeResponse).presents = s.presents := rfl
@[simp] theorem State.takeResponse_faultInfo (s : State) : (s.takeResponse).faultInfo = s.faultInfo := rfl
@[simp] theorem State.takeResponse_host (s : State) : (s.takeResponse).host = s.host := rfl
@[simp] theorem State.takeResponse_hostReads (s : State) : (s.takeResponse).hostReads = s.hostReads := rfl
@[simp] theorem State.takeResponse_late (s : State) : (s.takeResponse).late = s.late := rfl
@[simp] theorem State.takeResponse_draws (s : State) : (s.takeResponse).draws = s.draws := rfl

@[simp] theorem State.takePresent_params (s : State) : (s.takePresent).params = s.params := rfl
@[simp] theorem State.takePresent_cpos (s : State) : (s.takePresent).cpos = s.cpos := rfl
@[simp] theorem State.takePresent_dstate (s : State) : (s.takePresent).dstate = s.dstate := rfl
@[simp] theorem State.takePresent_status (s : State) : (s.takePresent).status = s.status := rfl
@[simp] theorem State.takePresent_mode (s : State) : (s.takePresent).mode = s.mode := rfl
@[simp] theorem State.takePresent_galpha (s : State) : (s.takePresent).galpha = s.galpha := rfl
@[simp] theorem State.takePresent_rlo (s : State) : (s.takePresent).rlo = s.rlo := rfl
@[simp] theorem State.takePresent_rhi (s : State) : (s.takePresent).rhi = s.rhi := rfl
@[simp] theorem State.takePresent_fill (s : State) : (s.takePresent).fill = s.fill := rfl
@[simp] theorem State.takePresent_hdr (s : State) : (s.takePresent).hdr = s.hdr := rfl
@[simp] theorem State.takePresent_surf (s : State) : (s.takePresent).surf = s.surf := rfl
@[simp] theorem State.takePresent_responses (s : State) : (s.takePresent).responses = s.responses := rfl
@[simp] theorem State.takePresent_presents (s : State) : (s.takePresent).presents = s.presents.tail := rfl
@[simp] theorem State.takePresent_faultInfo (s : State) : (s.takePresent).faultInfo = s.faultInfo := rfl
@[simp] theorem State.takePresent_host (s : State) : (s.takePresent).host = s.host := rfl
@[simp] theorem State.takePresent_hostReads (s : State) : (s.takePresent).hostReads = s.hostReads := rfl
@[simp] theorem State.takePresent_late (s : State) : (s.takePresent).late = s.late := rfl
@[simp] theorem State.takePresent_draws (s : State) : (s.takePresent).draws = s.draws := rfl

@[simp] theorem State.loadWords_params (s : State) (ws : List Word) : (s.loadWords ws).params = s.params := rfl
@[simp] theorem State.loadWords_cpos (s : State) (ws : List Word) : (s.loadWords ws).cpos = s.cpos := rfl
@[simp] theorem State.loadWords_dstate (s : State) (ws : List Word) : (s.loadWords ws).dstate = .idle := rfl
@[simp] theorem State.loadWords_status (s : State) (ws : List Word) : (s.loadWords ws).status = s.status := rfl
@[simp] theorem State.loadWords_mode (s : State) (ws : List Word) : (s.loadWords ws).mode = s.mode := rfl
@[simp] theorem State.loadWords_galpha (s : State) (ws : List Word) : (s.loadWords ws).galpha = s.galpha := rfl
@[simp] theorem State.loadWords_rlo (s : State) (ws : List Word) : (s.loadWords ws).rlo = s.rlo := rfl
@[simp] theorem State.loadWords_rhi (s : State) (ws : List Word) : (s.loadWords ws).rhi = s.rhi := rfl
@[simp] theorem State.loadWords_fill (s : State) (ws : List Word) : (s.loadWords ws).fill = s.fill := rfl
@[simp] theorem State.loadWords_hdr (s : State) (ws : List Word) : (s.loadWords ws).hdr = s.hdr := rfl
@[simp] theorem State.loadWords_surf (s : State) (ws : List Word) : (s.loadWords ws).surf = s.surf := rfl
@[simp] theorem State.loadWords_responses (s : State) (ws : List Word) : (s.loadWords ws).responses = s.responses := rfl
@[simp] theorem State.loadWords_presents (s : State) (ws : List Word) : (s.loadWords ws).presents = s.presents := rfl
@[simp] theorem State.loadWords_faultInfo (s : State) (ws : List Word) : (s.loadWords ws).faultInfo = s.faultInfo := rfl
@[simp] theorem State.loadWords_host (s : State) (ws : List Word) : (s.loadWords ws).host = ws.map .word ++ s.host := rfl
@[simp] theorem State.loadWords_hostReads (s : State) (ws : List Word) : (s.loadWords ws).hostReads = s.hostReads := rfl
@[simp] theorem State.loadWords_late (s : State) (ws : List Word) : (s.loadWords ws).late = s.late := rfl
@[simp] theorem State.loadWords_draws (s : State) (ws : List Word) : (s.loadWords ws).draws = s.draws := rfl

@[simp] theorem State.settleWith_params (s : State) (c : Nat → Bool) : (s.settleWith c).params = s.params := rfl
@[simp] theorem State.settleWith_cpos (s : State) (c : Nat → Bool) : (s.settleWith c).cpos = s.cpos := rfl
@[simp] theorem State.settleWith_dstate (s : State) (c : Nat → Bool) : (s.settleWith c).dstate = s.dstate := rfl
@[simp] theorem State.settleWith_status (s : State) (c : Nat → Bool) : (s.settleWith c).status = s.status := rfl
@[simp] theorem State.settleWith_mode (s : State) (c : Nat → Bool) : (s.settleWith c).mode = s.mode := rfl
@[simp] theorem State.settleWith_galpha (s : State) (c : Nat → Bool) : (s.settleWith c).galpha = s.galpha := rfl
@[simp] theorem State.settleWith_rlo (s : State) (c : Nat → Bool) : (s.settleWith c).rlo = s.rlo := rfl
@[simp] theorem State.settleWith_rhi (s : State) (c : Nat → Bool) : (s.settleWith c).rhi = s.rhi := rfl
@[simp] theorem State.settleWith_fill (s : State) (c : Nat → Bool) : (s.settleWith c).fill = s.fill := rfl
@[simp] theorem State.settleWith_hdr (s : State) (c : Nat → Bool) : (s.settleWith c).hdr = s.hdr := rfl
@[simp] theorem State.settleWith_surf (s : State) (c : Nat → Bool) : (s.settleWith c).surf = (landing c s.late).foldl (fun m w => cellWrite m w.1 w.2) s.surf := rfl
@[simp] theorem State.settleWith_responses (s : State) (c : Nat → Bool) : (s.settleWith c).responses = s.responses := rfl
@[simp] theorem State.settleWith_presents (s : State) (c : Nat → Bool) : (s.settleWith c).presents = s.presents := rfl
@[simp] theorem State.settleWith_faultInfo (s : State) (c : Nat → Bool) : (s.settleWith c).faultInfo = s.faultInfo := rfl
@[simp] theorem State.settleWith_host (s : State) (c : Nat → Bool) : (s.settleWith c).host = s.host := rfl
@[simp] theorem State.settleWith_hostReads (s : State) (c : Nat → Bool) : (s.settleWith c).hostReads = s.hostReads ++ returned c s.late := rfl
@[simp] theorem State.settleWith_late (s : State) (c : Nat → Bool) : (s.settleWith c).late = [] := rfl
@[simp] theorem State.settleWith_draws (s : State) (c : Nat → Bool) : (s.settleWith c).draws = s.draws := rfl

@[simp] theorem State.settle_params (s : State) (r : Option Rect) : (s.settle r).params = s.params := rfl
@[simp] theorem State.settle_cpos (s : State) (r : Option Rect) : (s.settle r).cpos = s.cpos := rfl
@[simp] theorem State.settle_dstate (s : State) (r : Option Rect) : (s.settle r).dstate = s.dstate := rfl
@[simp] theorem State.settle_status (s : State) (r : Option Rect) : (s.settle r).status = s.status := rfl
@[simp] theorem State.settle_mode (s : State) (r : Option Rect) : (s.settle r).mode = s.mode := rfl
@[simp] theorem State.settle_galpha (s : State) (r : Option Rect) : (s.settle r).galpha = s.galpha := rfl
@[simp] theorem State.settle_rlo (s : State) (r : Option Rect) : (s.settle r).rlo = s.rlo := rfl
@[simp] theorem State.settle_rhi (s : State) (r : Option Rect) : (s.settle r).rhi = s.rhi := rfl
@[simp] theorem State.settle_fill (s : State) (r : Option Rect) : (s.settle r).fill = s.fill := rfl
@[simp] theorem State.settle_hdr (s : State) (r : Option Rect) : (s.settle r).hdr = s.hdr := rfl
@[simp] theorem State.settle_surf (s : State) (r : Option Rect) : (s.settle r).surf = (s.settleWith fun j => r.any fun q => q.coversIndex s.params j).surf := rfl
@[simp] theorem State.settle_responses (s : State) (r : Option Rect) : (s.settle r).responses = s.responses := rfl
@[simp] theorem State.settle_presents (s : State) (r : Option Rect) : (s.settle r).presents = s.presents := rfl
@[simp] theorem State.settle_faultInfo (s : State) (r : Option Rect) : (s.settle r).faultInfo = s.faultInfo := rfl
@[simp] theorem State.settle_host (s : State) (r : Option Rect) : (s.settle r).host = s.host := rfl
@[simp] theorem State.settle_hostReads (s : State) (r : Option Rect) : (s.settle r).hostReads = (s.settleWith fun j => r.any fun q => q.coversIndex s.params j).hostReads := rfl
@[simp] theorem State.settle_late (s : State) (r : Option Rect) : (s.settle r).late = [] := rfl
@[simp] theorem State.settle_draws (s : State) (r : Option Rect) : (s.settle r).draws = s.draws := rfl

@[simp] theorem State.makeRoom_params (s : State) : (s.makeRoom).params = { s.params with
    responseDepth := max s.params.responseDepth (s.responses.length + 1)
    presentDepth := max s.params.presentDepth (s.presents.length + 1) } := rfl
@[simp] theorem State.makeRoom_cpos (s : State) : (s.makeRoom).cpos = s.cpos := rfl
@[simp] theorem State.makeRoom_dstate (s : State) : (s.makeRoom).dstate = s.dstate := rfl
@[simp] theorem State.makeRoom_status (s : State) : (s.makeRoom).status = s.status := rfl
@[simp] theorem State.makeRoom_mode (s : State) : (s.makeRoom).mode = s.mode := rfl
@[simp] theorem State.makeRoom_galpha (s : State) : (s.makeRoom).galpha = s.galpha := rfl
@[simp] theorem State.makeRoom_rlo (s : State) : (s.makeRoom).rlo = s.rlo := rfl
@[simp] theorem State.makeRoom_rhi (s : State) : (s.makeRoom).rhi = s.rhi := rfl
@[simp] theorem State.makeRoom_fill (s : State) : (s.makeRoom).fill = s.fill := rfl
@[simp] theorem State.makeRoom_hdr (s : State) : (s.makeRoom).hdr = s.hdr := rfl
@[simp] theorem State.makeRoom_surf (s : State) : (s.makeRoom).surf = s.surf := rfl
@[simp] theorem State.makeRoom_responses (s : State) : (s.makeRoom).responses = s.responses := rfl
@[simp] theorem State.makeRoom_presents (s : State) : (s.makeRoom).presents = s.presents := rfl
@[simp] theorem State.makeRoom_faultInfo (s : State) : (s.makeRoom).faultInfo = s.faultInfo := rfl
@[simp] theorem State.makeRoom_host (s : State) : (s.makeRoom).host = s.host := rfl
@[simp] theorem State.makeRoom_hostReads (s : State) : (s.makeRoom).hostReads = s.hostReads := rfl
@[simp] theorem State.makeRoom_late (s : State) : (s.makeRoom).late = s.late := rfl
@[simp] theorem State.makeRoom_draws (s : State) : (s.makeRoom).draws = s.draws := rfl

end Sys2Proof.Machine
end

