-- ==== Sys2Proof/Laws/Ops.lean ====
section
/-! SUPPORT. What each shared operation can do, said once: the cases of the guards, and for every loop the one field it
changes. -/
namespace Sys2Proof.Machine

/-! ## Guards -/

theorem unlessHalted_halted {s : State} (h : s.status.halted = true) (f : State → State) : s.unlessHalted f = s := by
  simp [State.unlessHalted, h]

theorem unlessHalted_running {s : State} (h : s.status.halted = false) (f : State → State) :
    s.unlessHalted f = f s := by
  simp [State.unlessHalted, h]

theorem withPixel_none {s : State} {x y : Word} (h : pixcoord s.params x y = none) (op : BitVec 8)
    (f : Nat → Nat → State → State) : s.withPixel op x y f = s.raise (.outOfBounds x y) op := by
  simp [State.withPixel, h]

theorem withPixel_some {s : State} {x y : Word} {a b : Nat} (h : pixcoord s.params x y = some (a, b)) (op : BitVec 8)
    (f : Nat → Nat → State → State) : s.withPixel op x y f = f a b s := by
  simp [State.withPixel, h]

theorem withClip_bad {s : State} {x y w h : Word} (hc : clip s.params x y w h = .bad) (op : BitVec 8)
    (e : State → State) (f : Rect → State → State) :
    s.withClip op x y w h e f = s.raise (.badOperand [x, y, w, h]) op := by
  simp [State.withClip, hc]

theorem withClip_empty {s : State} {x y w h : Word} (hc : clip s.params x y w h = .empty) (op : BitVec 8)
    (e : State → State) (f : Rect → State → State) : s.withClip op x y w h e f = e s := by
  simp [State.withClip, hc]

theorem withClip_rect {s : State} {x y w h : Word} {r : Rect} (hc : clip s.params x y w h = .rect r) (op : BitVec 8)
    (e : State → State) (f : Rect → State → State) : s.withClip op x y w h e f = f r s := by
  simp [State.withClip, hc]

/-- A command on a pixel raises OutOfBounds or does its work. -/
theorem withPixel_cases (s : State) (op : BitVec 8) (x y : Word) (f : Nat → Nat → State → State) :
    s.withPixel op x y f = s.raise (.outOfBounds x y) op ∨
      ∃ a b, pixcoord s.params x y = some (a, b) ∧ s.withPixel op x y f = f a b s := by
  cases h : pixcoord s.params x y with
  | none => exact .inl (withPixel_none h op f)
  | some q => exact .inr ⟨q.1, q.2, rfl, withPixel_some h op f⟩

/-- A command on a rectangle raises BadOperand, finds it EMPTY or does its work. -/
theorem withClip_cases (s : State) (op : BitVec 8) (x y w h : Word) (e : State → State) (f : Rect → State → State) :
    s.withClip op x y w h e f = s.raise (.badOperand [x, y, w, h]) op ∨ s.withClip op x y w h e f = e s ∨
      ∃ r, clip s.params x y w h = .rect r ∧ s.withClip op x y w h e f = f r s := by
  cases hc : clip s.params x y w h with
  | bad => exact .inl (withClip_bad hc op e f)
  | empty => exact .inr (.inl (withClip_empty hc op e f))
  | rect r => exact .inr (.inr ⟨r, rfl, withClip_rect hc op e f⟩)

/-! ## Loops that change one memory -/

theorem foldl_hdr_only {α : Type} {f : State → α → State} (h : ∀ t q, ∃ m, f t q = { t with hdr := m }) (l : List α)
    (s : State) : ∃ m, l.foldl f s = { s with hdr := m } := by
  induction l generalizing s with
  | nil => exact ⟨s.hdr, rfl⟩
  | cons q rest ih =>
    obtain ⟨m, hm⟩ := h s q
    obtain ⟨m', hm'⟩ := ih (f s q)
    exact ⟨m', by rw [List.foldl_cons, hm', hm]⟩

theorem foldl_surf_only {α : Type} {f : State → α → State} (h : ∀ t q, ∃ m, f t q = { t with surf := m }) (l : List α)
    (s : State) : ∃ m, l.foldl f s = { s with surf := m } := by
  induction l generalizing s with
  | nil => exact ⟨s.surf, rfl⟩
  | cons q rest ih =>
    obtain ⟨m, hm⟩ := h s q
    obtain ⟨m', hm'⟩ := ih (f s q)
    exact ⟨m', by rw [List.foldl_cons, hm', hm]⟩

/-- A merge changes the HDR memory only (40_blend R142). -/
theorem merge_hdr_only (s : State) (p : Nat) (src : Quad F64) : ∃ m, s.merge p src = { s with hdr := m } := ⟨_, rfl⟩

theorem mergeAll_hdr_only (s : State) (src : Nat × Nat → Quad F64) (l : List (Nat × Nat)) :
    ∃ m, s.mergeAll src l = { s with hdr := m } := by
  unfold State.mergeAll
  apply foldl_hdr_only
  intro t q
  exact merge_hdr_only t (pixelNumber t.params q.1 q.2) (src q)

theorem clearPixel_hdr_only (s : State) (x y : Nat) : ∃ m, s.clearPixel x y = { s with hdr := m } := by
  unfold State.clearPixel
  apply foldl_hdr_only
  intro t c
  exact ⟨_, rfl⟩

theorem clearAll_hdr_only (s : State) (l : List (Nat × Nat)) : ∃ m, s.clearAll l = { s with hdr := m } := by
  unfold State.clearAll
  apply foldl_hdr_only
  intro t q
  exact clearPixel_hdr_only t q.1 q.2

/-- TMPIX changes SURF only (42_tonemap R214). -/
theorem tonePixel_surf_only (s : State) (x y : Nat) : ∃ m, s.tonePixel x y = { s with surf := m } := by
  unfold State.tonePixel
  apply foldl_surf_only
  intro t c
  exact ⟨_, rfl⟩

theorem toneAll_surf_only (s : State) (l : List (Nat × Nat)) : ∃ m, s.toneAll l = { s with surf := m } := by
  unfold State.toneAll
  apply foldl_surf_only
  intro t q
  exact tonePixel_surf_only t q.1 q.2

/-- With nothing waiting, settling changes nothing. -/
theorem settleWith_of_none_waiting {s : State} (h : s.late = []) (c : Nat → Bool) : s.settleWith c = s := by
  obtain ⟨params, cpos, dstate, status, mode, galpha, rlo, rhi, fill, hdr, surf, responses, presents, faultInfo,
    host, hostReads, late, draws⟩ := s
  subst h
  simp [State.settleWith, landing, returned]

theorem settle_of_none_waiting {s : State} (h : s.late = []) (r : Option Rect) : s.settle r = s :=
  settleWith_of_none_waiting h _

@[simp] theorem State.merge_params (s : State) (p : Nat) (src : Quad F64) : (s.merge p src).params = s.params := by
  obtain ⟨m, h⟩ := merge_hdr_only s p src
  simp only [h]
@[simp] theorem State.merge_cpos (s : State) (p : Nat) (src : Quad F64) : (s.merge p src).cpos = s.cpos := by
  obtain ⟨m, h⟩ := merge_hdr_only s p src
  simp only [h]
@[simp] theorem State.merge_dstate (s : State) (p : Nat) (src : Quad F64) : (s.merge p src).dstate = s.dstate := by
  obtain ⟨m, h⟩ := merge_hdr_only s p src
  simp only [h]
@[simp] theorem State.merge_status (s : State) (p : Nat) (src : Quad F64) : (s.merge p src).status = s.status := by
  obtain ⟨m, h⟩ := merge_hdr_only s p src
  simp only [h]
@[simp] theorem State.merge_mode (s : State) (p : Nat) (src : Quad F64) : (s.merge p src).mode = s.mode := by
  obtain ⟨m, h⟩ := merge_hdr_only s p src
  simp only [h]
@[simp] theorem State.merge_galpha (s : State) (p : Nat) (src : Quad F64) : (s.merge p src).galpha = s.galpha := by
  obtain ⟨m, h⟩ := merge_hdr_only s p src
  simp only [h]
@[simp] theorem State.merge_rlo (s : State) (p : Nat) (src : Quad F64) : (s.merge p src).rlo = s.rlo := by
  obtain ⟨m, h⟩ := merge_hdr_only s p src
  simp only [h]
@[simp] theorem State.merge_rhi (s : State) (p : Nat) (src : Quad F64) : (s.merge p src).rhi = s.rhi := by
  obtain ⟨m, h⟩ := merge_hdr_only s p src
  simp only [h]
@[simp] theorem State.merge_fill (s : State) (p : Nat) (src : Quad F64) : (s.merge p src).fill = s.fill := by
  obtain ⟨m, h⟩ := merge_hdr_only s p src
  simp only [h]
@[simp] theorem State.merge_surf (s : State) (p : Nat) (src : Quad F64) : (s.merge p src).surf = s.surf := by
  obtain ⟨m, h⟩ := merge_hdr_only s p src
  simp only [h]
@[simp] theorem State.merge_responses (s : State) (p : Nat) (src : Quad F64) : (s.merge p src).responses = s.responses := by
  obtain ⟨m, h⟩ := merge_hdr_only s p src
  simp only [h]
@[simp] theorem State.merge_presents (s : State) (p : Nat) (src : Quad F64) : (s.merge p src).presents = s.presents := by
  obtain ⟨m, h⟩ := merge_hdr_only s p src
  simp only [h]
@[simp] theorem State.merge_faultInfo (s : State) (p : Nat) (src : Quad F64) : (s.merge p src).faultInfo = s.faultInfo := by
  obtain ⟨m, h⟩ := merge_hdr_only s p src
  simp only [h]
@[simp] theorem State.merge_host (s : State) (p : Nat) (src : Quad F64) : (s.merge p src).host = s.host := by
  obtain ⟨m, h⟩ := merge_hdr_only s p src
  simp only [h]
@[simp] theorem State.merge_hostReads (s : State) (p : Nat) (src : Quad F64) : (s.merge p src).hostReads = s.hostReads := by
  obtain ⟨m, h⟩ := merge_hdr_only s p src
  simp only [h]
@[simp] theorem State.merge_late (s : State) (p : Nat) (src : Quad F64) : (s.merge p src).late = s.late := by
  obtain ⟨m, h⟩ := merge_hdr_only s p src
  simp only [h]
@[simp] theorem State.merge_draws (s : State) (p : Nat) (src : Quad F64) : (s.merge p src).draws = s.draws := by
  obtain ⟨m, h⟩ := merge_hdr_only s p src
  simp only [h]

@[simp] theorem State.mergeAll_params (s : State) (src : Nat × Nat → Quad F64) (l : List (Nat × Nat)) : (s.mergeAll src l).params = s.params := by
  obtain ⟨m, h⟩ := mergeAll_hdr_only s src l
  simp only [h]
@[simp] theorem State.mergeAll_cpos (s : State) (src : Nat × Nat → Quad F64) (l : List (Nat × Nat)) : (s.mergeAll src l).cpos = s.cpos := by
  obtain ⟨m, h⟩ := mergeAll_hdr_only s src l
  simp only [h]
@[simp] theorem State.mergeAll_dstate (s : State) (src : Nat × Nat → Quad F64) (l : List (Nat × Nat)) : (s.mergeAll src l).dstate = s.dstate := by
  obtain ⟨m, h⟩ := mergeAll_hdr_only s src l
  simp only [h]
@[simp] theorem State.mergeAll_status (s : State) (src : Nat × Nat → Quad F64) (l : List (Nat × Nat)) : (s.mergeAll src l).status = s.status := by
  obtain ⟨m, h⟩ := mergeAll_hdr_only s src l
  simp only [h]
@[simp] theorem State.mergeAll_mode (s : State) (src : Nat × Nat → Quad F64) (l : List (Nat × Nat)) : (s.mergeAll src l).mode = s.mode := by
  obtain ⟨m, h⟩ := mergeAll_hdr_only s src l
  simp only [h]
@[simp] theorem State.mergeAll_galpha (s : State) (src : Nat × Nat → Quad F64) (l : List (Nat × Nat)) : (s.mergeAll src l).galpha = s.galpha := by
  obtain ⟨m, h⟩ := mergeAll_hdr_only s src l
  simp only [h]
@[simp] theorem State.mergeAll_rlo (s : State) (src : Nat × Nat → Quad F64) (l : List (Nat × Nat)) : (s.mergeAll src l).rlo = s.rlo := by
  obtain ⟨m, h⟩ := mergeAll_hdr_only s src l
  simp only [h]
@[simp] theorem State.mergeAll_rhi (s : State) (src : Nat × Nat → Quad F64) (l : List (Nat × Nat)) : (s.mergeAll src l).rhi = s.rhi := by
  obtain ⟨m, h⟩ := mergeAll_hdr_only s src l
  simp only [h]
@[simp] theorem State.mergeAll_fill (s : State) (src : Nat × Nat → Quad F64) (l : List (Nat × Nat)) : (s.mergeAll src l).fill = s.fill := by
  obtain ⟨m, h⟩ := mergeAll_hdr_only s src l
  simp only [h]
@[simp] theorem State.mergeAll_surf (s : State) (src : Nat × Nat → Quad F64) (l : List (Nat × Nat)) : (s.mergeAll src l).surf = s.surf := by
  obtain ⟨m, h⟩ := mergeAll_hdr_only s src l
  simp only [h]
@[simp] theorem State.mergeAll_responses (s : State) (src : Nat × Nat → Quad F64) (l : List (Nat × Nat)) : (s.mergeAll src l).responses = s.responses := by
  obtain ⟨m, h⟩ := mergeAll_hdr_only s src l
  simp only [h]
@[simp] theorem State.mergeAll_presents (s : State) (src : Nat × Nat → Quad F64) (l : List (Nat × Nat)) : (s.mergeAll src l).presents = s.presents := by
  obtain ⟨m, h⟩ := mergeAll_hdr_only s src l
  simp only [h]
@[simp] theorem State.mergeAll_faultInfo (s : State) (src : Nat × Nat → Quad F64) (l : List (Nat × Nat)) : (s.mergeAll src l).faultInfo = s.faultInfo := by
  obtain ⟨m, h⟩ := mergeAll_hdr_only s src l
  simp only [h]
@[simp] theorem State.mergeAll_host (s : State) (src : Nat × Nat → Quad F64) (l : List (Nat × Nat)) : (s.mergeAll src l).host = s.host := by
  obtain ⟨m, h⟩ := mergeAll_hdr_only s src l
  simp only [h]
@[simp] theorem State.mergeAll_hostReads (s : State) (src : Nat × Nat → Quad F64) (l : List (Nat × Nat)) : (s.mergeAll src l).hostReads = s.hostReads := by
  obtain ⟨m, h⟩ := mergeAll_hdr_only s src l
  simp only [h]
@[simp] theorem State.mergeAll_late (s : State) (src : Nat × Nat → Quad F64) (l : List (Nat × Nat)) : (s.mergeAll src l).late = s.late := by
  obtain ⟨m, h⟩ := mergeAll_hdr_only s src l
  simp only [h]
@[simp] theorem State.mergeAll_draws (s : State) (src : Nat × Nat → Quad F64) (l : List (Nat × Nat)) : (s.mergeAll src l).draws = s.draws := by
  obtain ⟨m, h⟩ := mergeAll_hdr_only s src l
  simp only [h]

@[simp] theorem State.clearPixel_params (s : State) (x y : Nat) : (s.clearPixel x y).params = s.params := by
  obtain ⟨m, h⟩ := clearPixel_hdr_only s x y
  simp only [h]
@[simp] theorem State.clearPixel_cpos (s : State) (x y : Nat) : (s.clearPixel x y).cpos = s.cpos := by
  obtain ⟨m, h⟩ := clearPixel_hdr_only s x y
  simp only [h]
@[simp] theorem State.clearPixel_dstate (s : State) (x y : Nat) : (s.clearPixel x y).dstate = s.dstate := by
  obtain ⟨m, h⟩ := clearPixel_hdr_only s x y
  simp only [h]
@[simp] theorem State.clearPixel_status (s : State) (x y : Nat) : (s.clearPixel x y).status = s.status := by
  obtain ⟨m, h⟩ := clearPixel_hdr_only s x y
  simp only [h]
@[simp] theorem State.clearPixel_mode (s : State) (x y : Nat) : (s.clearPixel x y).mode = s.mode := by
  obtain ⟨m, h⟩ := clearPixel_hdr_only s x y
  simp only [h]
@[simp] theorem State.clearPixel_galpha (s : State) (x y : Nat) : (s.clearPixel x y).galpha = s.galpha := by
  obtain ⟨m, h⟩ := clearPixel_hdr_only s x y
  simp only [h]
@[simp] theorem State.clearPixel_rlo (s : State) (x y : Nat) : (s.clearPixel x y).rlo = s.rlo := by
  obtain ⟨m, h⟩ := clearPixel_hdr_only s x y
  simp only [h]
@[simp] theorem State.clearPixel_rhi (s : State) (x y : Nat) : (s.clearPixel x y).rhi = s.rhi := by
  obtain ⟨m, h⟩ := clearPixel_hdr_only s x y
  simp only [h]
@[simp] theorem State.clearPixel_fill (s : State) (x y : Nat) : (s.clearPixel x y).fill = s.fill := by
  obtain ⟨m, h⟩ := clearPixel_hdr_only s x y
  simp only [h]
@[simp] theorem State.clearPixel_surf (s : State) (x y : Nat) : (s.clearPixel x y).surf = s.surf := by
  obtain ⟨m, h⟩ := clearPixel_hdr_only s x y
  simp only [h]
@[simp] theorem State.clearPixel_responses (s : State) (x y : Nat) : (s.clearPixel x y).responses = s.responses := by
  obtain ⟨m, h⟩ := clearPixel_hdr_only s x y
  simp only [h]
@[simp] theorem State.clearPixel_presents (s : State) (x y : Nat) : (s.clearPixel x y).presents = s.presents := by
  obtain ⟨m, h⟩ := clearPixel_hdr_only s x y
  simp only [h]
@[simp] theorem State.clearPixel_faultInfo (s : State) (x y : Nat) : (s.clearPixel x y).faultInfo = s.faultInfo := by
  obtain ⟨m, h⟩ := clearPixel_hdr_only s x y
  simp only [h]
@[simp] theorem State.clearPixel_host (s : State) (x y : Nat) : (s.clearPixel x y).host = s.host := by
  obtain ⟨m, h⟩ := clearPixel_hdr_only s x y
  simp only [h]
@[simp] theorem State.clearPixel_hostReads (s : State) (x y : Nat) : (s.clearPixel x y).hostReads = s.hostReads := by
  obtain ⟨m, h⟩ := clearPixel_hdr_only s x y
  simp only [h]
@[simp] theorem State.clearPixel_late (s : State) (x y : Nat) : (s.clearPixel x y).late = s.late := by
  obtain ⟨m, h⟩ := clearPixel_hdr_only s x y
  simp only [h]
@[simp] theorem State.clearPixel_draws (s : State) (x y : Nat) : (s.clearPixel x y).draws = s.draws := by
  obtain ⟨m, h⟩ := clearPixel_hdr_only s x y
  simp only [h]

@[simp] theorem State.clearAll_params (s : State) (l : List (Nat × Nat)) : (s.clearAll l).params = s.params := by
  obtain ⟨m, h⟩ := clearAll_hdr_only s l
  simp only [h]
@[simp] theorem State.clearAll_cpos (s : State) (l : List (Nat × Nat)) : (s.clearAll l).cpos = s.cpos := by
  obtain ⟨m, h⟩ := clearAll_hdr_only s l
  simp only [h]
@[simp] theorem State.clearAll_dstate (s : State) (l : List (Nat × Nat)) : (s.clearAll l).dstate = s.dstate := by
  obtain ⟨m, h⟩ := clearAll_hdr_only s l
  simp only [h]
@[simp] theorem State.clearAll_status (s : State) (l : List (Nat × Nat)) : (s.clearAll l).status = s.status := by
  obtain ⟨m, h⟩ := clearAll_hdr_only s l
  simp only [h]
@[simp] theorem State.clearAll_mode (s : State) (l : List (Nat × Nat)) : (s.clearAll l).mode = s.mode := by
  obtain ⟨m, h⟩ := clearAll_hdr_only s l
  simp only [h]
@[simp] theorem State.clearAll_galpha (s : State) (l : List (Nat × Nat)) : (s.clearAll l).galpha = s.galpha := by
  obtain ⟨m, h⟩ := clearAll_hdr_only s l
  simp only [h]
@[simp] theorem State.clearAll_rlo (s : State) (l : List (Nat × Nat)) : (s.clearAll l).rlo = s.rlo := by
  obtain ⟨m, h⟩ := clearAll_hdr_only s l
  simp only [h]
@[simp] theorem State.clearAll_rhi (s : State) (l : List (Nat × Nat)) : (s.clearAll l).rhi = s.rhi := by
  obtain ⟨m, h⟩ := clearAll_hdr_only s l
  simp only [h]
@[simp] theorem State.clearAll_fill (s : State) (l : List (Nat × Nat)) : (s.clearAll l).fill = s.fill := by
  obtain ⟨m, h⟩ := clearAll_hdr_only s l
  simp only [h]
@[simp] theorem State.clearAll_surf (s : State) (l : List (Nat × Nat)) : (s.clearAll l).surf = s.surf := by
  obtain ⟨m, h⟩ := clearAll_hdr_only s l
  simp only [h]
@[simp] theorem State.clearAll_responses (s : State) (l : List (Nat × Nat)) : (s.clearAll l).responses = s.responses := by
  obtain ⟨m, h⟩ := clearAll_hdr_only s l
  simp only [h]
@[simp] theorem State.clearAll_presents (s : State) (l : List (Nat × Nat)) : (s.clearAll l).presents = s.presents := by
  obtain ⟨m, h⟩ := clearAll_hdr_only s l
  simp only [h]
@[simp] theorem State.clearAll_faultInfo (s : State) (l : List (Nat × Nat)) : (s.clearAll l).faultInfo = s.faultInfo := by
  obtain ⟨m, h⟩ := clearAll_hdr_only s l
  simp only [h]
@[simp] theorem State.clearAll_host (s : State) (l : List (Nat × Nat)) : (s.clearAll l).host = s.host := by
  obtain ⟨m, h⟩ := clearAll_hdr_only s l
  simp only [h]
@[simp] theorem State.clearAll_hostReads (s : State) (l : List (Nat × Nat)) : (s.clearAll l).hostReads = s.hostReads := by
  obtain ⟨m, h⟩ := clearAll_hdr_only s l
  simp only [h]
@[simp] theorem State.clearAll_late (s : State) (l : List (Nat × Nat)) : (s.clearAll l).late = s.late := by
  obtain ⟨m, h⟩ := clearAll_hdr_only s l
  simp only [h]
@[simp] theorem State.clearAll_draws (s : State) (l : List (Nat × Nat)) : (s.clearAll l).draws = s.draws := by
  obtain ⟨m, h⟩ := clearAll_hdr_only s l
  simp only [h]

@[simp] theorem State.tonePixel_params (s : State) (x y : Nat) : (s.tonePixel x y).params = s.params := by
  obtain ⟨m, h⟩ := tonePixel_surf_only s x y
  simp only [h]
@[simp] theorem State.tonePixel_cpos (s : State) (x y : Nat) : (s.tonePixel x y).cpos = s.cpos := by
  obtain ⟨m, h⟩ := tonePixel_surf_only s x y
  simp only [h]
@[simp] theorem State.tonePixel_dstate (s : State) (x y : Nat) : (s.tonePixel x y).dstate = s.dstate := by
  obtain ⟨m, h⟩ := tonePixel_surf_only s x y
  simp only [h]
@[simp] theorem State.tonePixel_status (s : State) (x y : Nat) : (s.tonePixel x y).status = s.status := by
  obtain ⟨m, h⟩ := tonePixel_surf_only s x y
  simp only [h]
@[simp] theorem State.tonePixel_mode (s : State) (x y : Nat) : (s.tonePixel x y).mode = s.mode := by
  obtain ⟨m, h⟩ := tonePixel_surf_only s x y
  simp only [h]
@[simp] theorem State.tonePixel_galpha (s : State) (x y : Nat) : (s.tonePixel x y).galpha = s.galpha := by
  obtain ⟨m, h⟩ := tonePixel_surf_only s x y
  simp only [h]
@[simp] theorem State.tonePixel_rlo (s : State) (x y : Nat) : (s.tonePixel x y).rlo = s.rlo := by
  obtain ⟨m, h⟩ := tonePixel_surf_only s x y
  simp only [h]
@[simp] theorem State.tonePixel_rhi (s : State) (x y : Nat) : (s.tonePixel x y).rhi = s.rhi := by
  obtain ⟨m, h⟩ := tonePixel_surf_only s x y
  simp only [h]
@[simp] theorem State.tonePixel_fill (s : State) (x y : Nat) : (s.tonePixel x y).fill = s.fill := by
  obtain ⟨m, h⟩ := tonePixel_surf_only s x y
  simp only [h]
@[simp] theorem State.tonePixel_hdr (s : State) (x y : Nat) : (s.tonePixel x y).hdr = s.hdr := by
  obtain ⟨m, h⟩ := tonePixel_surf_only s x y
  simp only [h]
@[simp] theorem State.tonePixel_responses (s : State) (x y : Nat) : (s.tonePixel x y).responses = s.responses := by
  obtain ⟨m, h⟩ := tonePixel_surf_only s x y
  simp only [h]
@[simp] theorem State.tonePixel_presents (s : State) (x y : Nat) : (s.tonePixel x y).presents = s.presents := by
  obtain ⟨m, h⟩ := tonePixel_surf_only s x y
  simp only [h]
@[simp] theorem State.tonePixel_faultInfo (s : State) (x y : Nat) : (s.tonePixel x y).faultInfo = s.faultInfo := by
  obtain ⟨m, h⟩ := tonePixel_surf_only s x y
  simp only [h]
@[simp] theorem State.tonePixel_host (s : State) (x y : Nat) : (s.tonePixel x y).host = s.host := by
  obtain ⟨m, h⟩ := tonePixel_surf_only s x y
  simp only [h]
@[simp] theorem State.tonePixel_hostReads (s : State) (x y : Nat) : (s.tonePixel x y).hostReads = s.hostReads := by
  obtain ⟨m, h⟩ := tonePixel_surf_only s x y
  simp only [h]
@[simp] theorem State.tonePixel_late (s : State) (x y : Nat) : (s.tonePixel x y).late = s.late := by
  obtain ⟨m, h⟩ := tonePixel_surf_only s x y
  simp only [h]
@[simp] theorem State.tonePixel_draws (s : State) (x y : Nat) : (s.tonePixel x y).draws = s.draws := by
  obtain ⟨m, h⟩ := tonePixel_surf_only s x y
  simp only [h]

@[simp] theorem State.toneAll_params (s : State) (l : List (Nat × Nat)) : (s.toneAll l).params = s.params := by
  obtain ⟨m, h⟩ := toneAll_surf_only s l
  simp only [h]
@[simp] theorem State.toneAll_cpos (s : State) (l : List (Nat × Nat)) : (s.toneAll l).cpos = s.cpos := by
  obtain ⟨m, h⟩ := toneAll_surf_only s l
  simp only [h]
@[simp] theorem State.toneAll_dstate (s : State) (l : List (Nat × Nat)) : (s.toneAll l).dstate = s.dstate := by
  obtain ⟨m, h⟩ := toneAll_surf_only s l
  simp only [h]
@[simp] theorem State.toneAll_status (s : State) (l : List (Nat × Nat)) : (s.toneAll l).status = s.status := by
  obtain ⟨m, h⟩ := toneAll_surf_only s l
  simp only [h]
@[simp] theorem State.toneAll_mode (s : State) (l : List (Nat × Nat)) : (s.toneAll l).mode = s.mode := by
  obtain ⟨m, h⟩ := toneAll_surf_only s l
  simp only [h]
@[simp] theorem State.toneAll_galpha (s : State) (l : List (Nat × Nat)) : (s.toneAll l).galpha = s.galpha := by
  obtain ⟨m, h⟩ := toneAll_surf_only s l
  simp only [h]
@[simp] theorem State.toneAll_rlo (s : State) (l : List (Nat × Nat)) : (s.toneAll l).rlo = s.rlo := by
  obtain ⟨m, h⟩ := toneAll_surf_only s l
  simp only [h]
@[simp] theorem State.toneAll_rhi (s : State) (l : List (Nat × Nat)) : (s.toneAll l).rhi = s.rhi := by
  obtain ⟨m, h⟩ := toneAll_surf_only s l
  simp only [h]
@[simp] theorem State.toneAll_fill (s : State) (l : List (Nat × Nat)) : (s.toneAll l).fill = s.fill := by
  obtain ⟨m, h⟩ := toneAll_surf_only s l
  simp only [h]
@[simp] theorem State.toneAll_hdr (s : State) (l : List (Nat × Nat)) : (s.toneAll l).hdr = s.hdr := by
  obtain ⟨m, h⟩ := toneAll_surf_only s l
  simp only [h]
@[simp] theorem State.toneAll_responses (s : State) (l : List (Nat × Nat)) : (s.toneAll l).responses = s.responses := by
  obtain ⟨m, h⟩ := toneAll_surf_only s l
  simp only [h]
@[simp] theorem State.toneAll_presents (s : State) (l : List (Nat × Nat)) : (s.toneAll l).presents = s.presents := by
  obtain ⟨m, h⟩ := toneAll_surf_only s l
  simp only [h]
@[simp] theorem State.toneAll_faultInfo (s : State) (l : List (Nat × Nat)) : (s.toneAll l).faultInfo = s.faultInfo := by
  obtain ⟨m, h⟩ := toneAll_surf_only s l
  simp only [h]
@[simp] theorem State.toneAll_host (s : State) (l : List (Nat × Nat)) : (s.toneAll l).host = s.host := by
  obtain ⟨m, h⟩ := toneAll_surf_only s l
  simp only [h]
@[simp] theorem State.toneAll_hostReads (s : State) (l : List (Nat × Nat)) : (s.toneAll l).hostReads = s.hostReads := by
  obtain ⟨m, h⟩ := toneAll_surf_only s l
  simp only [h]
@[simp] theorem State.toneAll_late (s : State) (l : List (Nat × Nat)) : (s.toneAll l).late = s.late := by
  obtain ⟨m, h⟩ := toneAll_surf_only s l
  simp only [h]
@[simp] theorem State.toneAll_draws (s : State) (l : List (Nat × Nat)) : (s.toneAll l).draws = s.draws := by
  obtain ⟨m, h⟩ := toneAll_surf_only s l
  simp only [h]

/-! ## The rectangle tone-map -/

@[simp] theorem State.toneRect_params (s : State) (r : Rect) : (s.toneRect r).params = s.params := by
  simp [State.toneRect]
@[simp] theorem State.toneRect_cpos (s : State) (r : Rect) : (s.toneRect r).cpos = s.cpos := by
  simp [State.toneRect]
@[simp] theorem State.toneRect_dstate (s : State) (r : Rect) : (s.toneRect r).dstate = s.dstate := by
  simp [State.toneRect]
@[simp] theorem State.toneRect_status (s : State) (r : Rect) : (s.toneRect r).status = s.status := by
  simp [State.toneRect]
@[simp] theorem State.toneRect_mode (s : State) (r : Rect) : (s.toneRect r).mode = s.mode := by
  simp [State.toneRect]
@[simp] theorem State.toneRect_galpha (s : State) (r : Rect) : (s.toneRect r).galpha = s.galpha := by
  simp [State.toneRect]
@[simp] theorem State.toneRect_rlo (s : State) (r : Rect) : (s.toneRect r).rlo = s.rlo := by
  simp [State.toneRect]
@[simp] theorem State.toneRect_rhi (s : State) (r : Rect) : (s.toneRect r).rhi = s.rhi := by
  simp [State.toneRect]
@[simp] theorem State.toneRect_fill (s : State) (r : Rect) : (s.toneRect r).fill = s.fill := by
  simp [State.toneRect]
@[simp] theorem State.toneRect_hdr (s : State) (r : Rect) : (s.toneRect r).hdr = s.hdr := by
  simp [State.toneRect]
@[simp] theorem State.toneRect_responses (s : State) (r : Rect) : (s.toneRect r).responses = s.responses := by
  simp [State.toneRect]
@[simp] theorem State.toneRect_presents (s : State) (r : Rect) : (s.toneRect r).presents = s.presents ++ [r] := by
  simp [State.toneRect]
@[simp] theorem State.toneRect_faultInfo (s : State) (r : Rect) : (s.toneRect r).faultInfo = s.faultInfo := by
  simp [State.toneRect]
@[simp] theorem State.toneRect_host (s : State) (r : Rect) : (s.toneRect r).host = s.host := by
  simp [State.toneRect]
@[simp] theorem State.toneRect_hostReads (s : State) (r : Rect) : (s.toneRect r).hostReads = s.hostReads := by
  simp [State.toneRect]
@[simp] theorem State.toneRect_late (s : State) (r : Rect) : (s.toneRect r).late = s.late := by
  simp [State.toneRect]
@[simp] theorem State.toneRect_draws (s : State) (r : Rect) : (s.toneRect r).draws = s.draws := by
  simp [State.toneRect]

@[simp] theorem State.toneRect_surf (s : State) (r : Rect) : (s.toneRect r).surf = (s.toneAll r.pixels).surf := rfl

/-! ## The decoder's framing (30_encoding R111, R118) -/

theorem accept_idle_command {s : State} (hd : s.dstate = .idle) {w : Word} (hn : operandCount (hdrOp w) = 0) :
    s.accept w = ({ s with cpos := s.cpos + 1 }, some (w, [])) := by
  simp [State.accept, hd, hn]

theorem accept_idle_collect {s : State} (hd : s.dstate = .idle) {w : Word} (hn : operandCount (hdrOp w) ≠ 0) :
    s.accept w = ({ s with cpos := s.cpos + 1, dstate := .collecting w [] }, none) := by
  simp [State.accept, hd, hn]

theorem accept_last {s : State} {hdr : Word} {ops : List Word} (hd : s.dstate = .collecting hdr ops) {w : Word}
    (hn : ops.length + 1 = operandCount (hdrOp hdr)) :
    s.accept w = ({ s with cpos := s.cpos + 1, dstate := .idle }, some (hdr, ops ++ [w])) := by
  simp [State.accept, hd, hn]

theorem accept_more {s : State} {hdr : Word} {ops : List Word} (hd : s.dstate = .collecting hdr ops) {w : Word}
    (hn : ops.length + 1 ≠ operandCount (hdrOp hdr)) :
    s.accept w = ({ s with cpos := s.cpos + 1, dstate := .collecting hdr (ops ++ [w]) }, none) := by
  simp [State.accept, hd, hn]

end Sys2Proof.Machine
end

