-- ==== Sys2Proof/Laws/Exec.lean ====
section
/-! SUPPORT. What every command leaves alone, said once for all of exec. -/
namespace Sys2Proof.Machine

/-- The fields no command writes: the parameters, the decoder's, and the host's side. -/
structure SameFrame (s t : State) : Prop where
  params : t.params = s.params
  cpos : t.cpos = s.cpos
  dstate : t.dstate = s.dstate
  host : t.host = s.host
  hostReads : t.hostReads = s.hostReads
  late : t.late = s.late

theorem SameFrame.refl (s : State) : SameFrame s s := ⟨rfl, rfl, rfl, rfl, rfl, rfl⟩

theorem unlessHalted_sameFrame {s : State} {f : State → State} (h : SameFrame s (f s)) :
    SameFrame s (s.unlessHalted f) := by
  cases hh : s.status.halted with
  | true => rw [unlessHalted_halted hh]; exact .refl s
  | false => rw [unlessHalted_running hh]; exact h

theorem withPixel_sameFrame {s : State} {op : BitVec 8} {x y : Word} {f : Nat → Nat → State → State}
    (h : ∀ a b, SameFrame s (f a b s)) : SameFrame s (s.withPixel op x y f) := by
  rcases withPixel_cases s op x y f with h' | ⟨a, b, -, h'⟩ <;> rw [h']
  · exact ⟨rfl, rfl, rfl, rfl, rfl, rfl⟩
  · exact h a b

theorem withClip_sameFrame {s : State} {op : BitVec 8} {x y w h : Word} {e : State → State} {f : Rect → State → State}
    (he : SameFrame s (e s)) (hf : ∀ r, SameFrame s (f r s)) : SameFrame s (s.withClip op x y w h e f) := by
  rcases withClip_cases s op x y w h e f with h' | h' | ⟨r, -, h'⟩ <;> rw [h']
  · exact ⟨rfl, rfl, rfl, rfl, rfl, rfl⟩
  · exact he
  · exact hf r

theorem chooseMode_sameFrame (s : State) (m : BlendMode) : SameFrame s (s.chooseMode m) :=
  unlessHalted_sameFrame ⟨rfl, rfl, rfl, rfl, rfl, rfl⟩

theorem blendRect_sameFrame (s : State) (src : Nat × Nat → Quad F64) (r : Rect) :
    SameFrame s (s.blendRect src r) := by
  constructor <;> simp [State.blendRect]

theorem blendPixel_sameFrame (s : State) (src : Quad F64) (x y : Nat) : SameFrame s (s.blendPixel src x y) := by
  constructor <;> simp [State.blendPixel]

/-- Every command goes on to a next state, and that state differs from the one before it in registers, memories,
streams and the number of the free values only. -/
theorem exec_next_sameFrame (i : Instr) (s : State) : ∃ t, exec i s = .next t ∧ SameFrame s t := by
  cases i with
  | nop => exact ⟨_, rfl, .refl s⟩
  | setmode msel =>
    refine ⟨_, rfl, unlessHalted_sameFrame ?_⟩
    unfold State.selectMode
    split <;> exact ⟨rfl, rfl, rfl, rfl, rfl, rfl⟩
  | setga ga =>
    refine ⟨_, rfl, unlessHalted_sameFrame ?_⟩
    split <;> exact ⟨rfl, rfl, rfl, rfl, rfl, rfl⟩
  | setrange ch low high =>
    refine ⟨_, rfl, unlessHalted_sameFrame ?_⟩
    split <;> exact ⟨rfl, rfl, rfl, rfl, rfl, rfl⟩
  | setfill r g b a => exact ⟨_, rfl, unlessHalted_sameFrame ⟨rfl, rfl, rfl, rfl, rfl, rfl⟩⟩
  | setfillDa r g b a => exact ⟨_, rfl, unlessHalted_sameFrame ⟨rfl, rfl, rfl, rfl, rfl, rfl⟩⟩
  | blendpx x y r g b a =>
    exact ⟨_, rfl, unlessHalted_sameFrame (withPixel_sameFrame fun _ _ => blendPixel_sameFrame s _ _ _)⟩
  | blendpxDa x y r g b a =>
    exact ⟨_, rfl, unlessHalted_sameFrame (withPixel_sameFrame fun _ _ => blendPixel_sameFrame s _ _ _)⟩
  | fillrect x y w h =>
    exact ⟨_, rfl, unlessHalted_sameFrame (withClip_sameFrame (.refl s) fun _ => blendRect_sameFrame s _ _)⟩
  | clearrect x y w h =>
    refine ⟨_, rfl, unlessHalted_sameFrame (withClip_sameFrame (.refl s) fun r => ?_)⟩
    constructor <;> simp
  | drawimg x y w h =>
    exact ⟨_, rfl, unlessHalted_sameFrame (withClip_sameFrame (.refl s) fun _ => blendRect_sameFrame s _ _)⟩
  | tonemap x y w h =>
    refine ⟨_, rfl, unlessHalted_sameFrame (withClip_sameFrame (.refl s) fun r => ?_)⟩
    constructor <;> simp
  | tonemapall =>
    refine ⟨_, rfl, unlessHalted_sameFrame ?_⟩
    split
    · constructor <;> simp
    · exact .refl s
  | readpx x y =>
    exact ⟨_, rfl, unlessHalted_sameFrame (withPixel_sameFrame fun _ _ => ⟨rfl, rfl, rfl, rfl, rfl, rfl⟩)⟩
  | mappx x y =>
    exact ⟨_, rfl, unlessHalted_sameFrame (withPixel_sameFrame fun _ _ => ⟨rfl, rfl, rfl, rfl, rfl, rfl⟩)⟩
  | extract x y w h =>
    exact ⟨_, rfl, unlessHalted_sameFrame (withClip_sameFrame ⟨rfl, rfl, rfl, rfl, rfl, rfl⟩
      fun _ => ⟨rfl, rfl, rfl, rfl, rfl, rfl⟩)⟩
  | rdreg reg => exact ⟨_, rfl, ⟨rfl, rfl, rfl, rfl, rfl, rfl⟩⟩
  | _ => exact ⟨_, rfl, chooseMode_sameFrame s _⟩

end Sys2Proof.Machine
end

