-- ==== Sys2Proof/Laws/HostPort.lean ====
section
/-! SUPPORT. What settling the host's waiting accesses to SURF can do: which writes land, and what a byte then reads. -/
namespace Sys2Proof.Machine

/-- A write that lands is the last one to its byte. -/
theorem landing_mem {c : Nat → Bool} {l : List LateAccess} {j : Nat} {b : Byte} (h : (j, b) ∈ landing c l) :
    lastWrite l j = some b := by
  induction l with
  | nil => simp [landing] at h
  | cons a rest ih =>
    cases a with
    | read i v k => exact ih h
    | write i v w =>
      simp only [landing] at h
      split at h
      · rename_i hc
        rcases List.mem_cons.1 h with h | h
        · obtain ⟨rfl, rfl⟩ := Prod.mk.inj h
          simp only [Bool.and_eq_true, Option.isNone_iff_eq_none] at hc
          simp [lastWrite, hc.1]
        · simp [lastWrite, ih h]
      · simp [lastWrite, ih h]

/-- The last write to a byte that the command's rectangle does not cover lands. -/
theorem landing_uncovered {c : Nat → Bool} {l : List LateAccess} {j : Nat} {b : Byte} (hc : c j = false)
    (h : lastWrite l j = some b) : (j, b) ∈ landing c l := by
  induction l with
  | nil => simp [lastWrite] at h
  | cons a rest ih =>
    cases a with
    | read i v k => exact ih h
    | write i v w =>
      simp only [landing]
      cases hr : lastWrite rest j with
      | some b' =>
        have : b' = b := by simpa [lastWrite, hr] using h
        subst this
        split
        · exact List.mem_cons_of_mem _ (ih hr)
        · exact ih hr
      | none =>
        by_cases hi : i = j
        · subst hi
          have : v = b := by simpa [lastWrite, hr] using h
          simp [hr, hc, this]
        · simp [lastWrite, hr, hi] at h

/-- Writes to bytes of a memory, done in turn: they keep its form. -/
theorem cellWrites_wf {size : Nat} (ws : List (Nat × Byte)) {m : List Host.Cell} (hm : Memory.wf size m)
    (h : ∀ w ∈ ws, w.1 < size) : Memory.wf size (ws.foldl (fun m w => cellWrite m w.1 w.2) m) := by
  induction ws generalizing m with
  | nil => exact hm
  | cons w rest ih =>
    exact ih (cellWrite_wf hm (h w List.mem_cons_self) w.2) fun w' h' => h w' (List.mem_cons_of_mem _ h')

/-- A byte none of them writes reads as before; a byte to which every one of them writes `b`, and one does, reads `b`. -/
theorem cellRead_writes (ws : List (Nat × Byte)) (j : Nat) (b : Byte) (h : ∀ b', (j, b') ∈ ws → b' = b) :
    ∀ m : List Host.Cell, m.Pairwise (fun c d => c.1 < d.1) →
      cellRead (ws.foldl (fun m w => cellWrite m w.1 w.2) m) j = if (j, b) ∈ ws then b else cellRead m j := by
  induction ws with
  | nil => intro m _; simp
  | cons w rest ih =>
    intro m hm
    rw [List.foldl_cons, ih (fun b' h' => h b' (List.mem_cons_of_mem _ h')) _ (cellWrite_pairwise hm _ _)]
    by_cases hj : w.1 = j
    · have hb : w.2 = b := h w.2 (by rw [← hj]; exact List.mem_cons_self)
      have hw : w = (j, b) := Prod.ext hj hb
      subst hw
      simp [cellRead_write_same m hm]
    · have hw : (j, b) ≠ w := fun e => hj (by rw [← e])
      simp [cellRead_write_other m (Ne.symm hj), hw]

/-- Settling keeps SURF's form. -/
theorem settleWith_surf_wf {s : State} (h : Memory.wf (memSize s.params) s.surf)
    (hl : ∀ a ∈ s.late, a.idx < memSize s.params) (c : Nat → Bool) :
    Memory.wf (memSize s.params) (s.settleWith c).surf := by
  refine cellWrites_wf _ h ?_
  have key : ∀ l : List LateAccess, (∀ a ∈ l, a.idx < memSize s.params) →
      ∀ w ∈ landing c l, w.1 < memSize s.params := by
    intro l
    induction l with
    | nil => intro _ w hw; simp [landing] at hw
    | cons a rest ih =>
      intro h w hw
      have hr := ih fun a ha => h a (List.mem_cons_of_mem _ ha)
      cases a with
      | read => exact hr w hw
      | write i v wn =>
        simp only [landing] at hw
        split at hw
        · rcases List.mem_cons.1 hw with e | e
          · rw [e]; exact h (.write i v wn) List.mem_cons_self
          · exact hr w e
        · exact hr w hw
  exact key _ hl

/-- What a byte reads when the waiting accesses are settled: with no write to it waiting, what it read; else the last
write's value or what it read, and the former outside the command's rectangle. -/
theorem settleWith_surfRead (s : State) (c : Nat → Bool) (j : Nat) (hm : s.surf.Pairwise fun c d => c.1 < d.1) :
    (lastWrite s.late j = none → (s.settleWith c).surfRead j = s.surfRead j) ∧
    ∀ b, lastWrite s.late j = some b →
      ((s.settleWith c).surfRead j = b ∨ (s.settleWith c).surfRead j = s.surfRead j) ∧
      (c j = false → (s.settleWith c).surfRead j = b) := by
  have key := fun b h => cellRead_writes (landing c s.late) j b h s.surf hm
  refine ⟨fun h => ?_, fun b h => ?_⟩
  · have hn : ∀ b, (j, b) ∉ landing c s.late := fun b hb => by simp [landing_mem hb] at h
    exact (key 0 fun b' hb => absurd hb (hn b')).trans (if_neg (hn 0))
  · have hl := key b fun b' hb => by simpa [landing_mem hb] using h
    refine ⟨?_, fun hc => hl.trans (if_pos (landing_uncovered hc h))⟩
    by_cases hb : (j, b) ∈ landing c s.late
    · exact .inl (hl.trans (if_pos hb))
    · exact .inr (hl.trans (if_neg hb))

end Sys2Proof.Machine
end

