-- ==== Sys2Proof/Laws/PerInstr.lean ====
section
/-! SUPPORT. Facts about every instruction, one lemma for each constructor. -/
namespace Sys2Proof.Laws.PacketLength

/-- An instruction's packet is a header with the instruction's OP and N(OP) operand words (30_encoding R100). -/
def Statement (i : Instr) : Prop :=
  ∃ hdr ops, encode i = hdr :: ops ∧ hdrOp hdr = i.opName.code ∧ ops.length = i.opName.operands

theorem nop : Statement (.nop) :=
  ⟨_, _, rfl, by simp [plainHeader, Instr.opName], rfl⟩

theorem setmode (msel : BitVec 5) : Statement (.setmode msel) :=
  ⟨_, _, rfl, by simp [setmodeHeader, Instr.opName], rfl⟩

theorem setga (ga : Word) : Statement (.setga ga) :=
  ⟨_, _, rfl, by simp [plainHeader, Instr.opName], rfl⟩

theorem setrange (ch : Chan) (low high : Word) : Statement (.setrange ch low high) :=
  ⟨_, _, rfl, by simp [Instr.opName], rfl⟩

theorem setfill (r g b a : Word) : Statement (.setfill r g b a) :=
  ⟨_, _, rfl, by simp [plainHeader, Instr.opName], rfl⟩

theorem setfillDa (r g b a : Word) : Statement (.setfillDa r g b a) :=
  ⟨_, _, rfl, by simp [Instr.opName], rfl⟩

theorem blendpx (x y r g b a : Word) : Statement (.blendpx x y r g b a) :=
  ⟨_, _, rfl, by simp [plainHeader, Instr.opName], rfl⟩

theorem blendpxDa (x y r g b a : Word) : Statement (.blendpxDa x y r g b a) :=
  ⟨_, _, rfl, by simp [Instr.opName], rfl⟩

theorem fillrect (x y w h : Word) : Statement (.fillrect x y w h) :=
  ⟨_, _, rfl, by simp [plainHeader, Instr.opName], rfl⟩

theorem clearrect (x y w h : Word) : Statement (.clearrect x y w h) :=
  ⟨_, _, rfl, by simp [plainHeader, Instr.opName], rfl⟩

theorem drawimg (dx dy dw dh : Word) : Statement (.drawimg dx dy dw dh) :=
  ⟨_, _, rfl, by simp [plainHeader, Instr.opName], rfl⟩

theorem tonemap (x y w h : Word) : Statement (.tonemap x y w h) :=
  ⟨_, _, rfl, by simp [plainHeader, Instr.opName], rfl⟩

theorem tonemapall : Statement (.tonemapall) :=
  ⟨_, _, rfl, by simp [plainHeader, Instr.opName], rfl⟩

theorem readpx (x y : Word) : Statement (.readpx x y) :=
  ⟨_, _, rfl, by simp [plainHeader, Instr.opName], rfl⟩

theorem mappx (x y : Word) : Statement (.mappx x y) :=
  ⟨_, _, rfl, by simp [plainHeader, Instr.opName], rfl⟩

theorem extract (x y w h : Word) : Statement (.extract x y w h) :=
  ⟨_, _, rfl, by simp [plainHeader, Instr.opName], rfl⟩

theorem rdreg (reg : Reg) : Statement (.rdreg reg) :=
  ⟨_, _, rfl, by simp [Instr.opName], rfl⟩

theorem setmodeSource : Statement (.setmodeSource) :=
  ⟨_, _, rfl, by simp [setmodeHeader, Instr.opName], rfl⟩

theorem setmodeDestination : Statement (.setmodeDestination) :=
  ⟨_, _, rfl, by simp [setmodeHeader, Instr.opName], rfl⟩

theorem setmodeClear : Statement (.setmodeClear) :=
  ⟨_, _, rfl, by simp [setmodeHeader, Instr.opName], rfl⟩

theorem setmodeXor : Statement (.setmodeXor) :=
  ⟨_, _, rfl, by simp [setmodeHeader, Instr.opName], rfl⟩

theorem setmodeSourceOver : Statement (.setmodeSourceOver) :=
  ⟨_, _, rfl, by simp [setmodeHeader, Instr.opName], rfl⟩

theorem setmodeSourceIn : Statement (.setmodeSourceIn) :=
  ⟨_, _, rfl, by simp [setmodeHeader, Instr.opName], rfl⟩

theorem setmodeSourceOut : Statement (.setmodeSourceOut) :=
  ⟨_, _, rfl, by simp [setmodeHeader, Instr.opName], rfl⟩

theorem setmodeSourceAtop : Statement (.setmodeSourceAtop) :=
  ⟨_, _, rfl, by simp [setmodeHeader, Instr.opName], rfl⟩

theorem setmodeDestinationOver : Statement (.setmodeDestinationOver) :=
  ⟨_, _, rfl, by simp [setmodeHeader, Instr.opName], rfl⟩

theorem setmodeDestinationIn : Statement (.setmodeDestinationIn) :=
  ⟨_, _, rfl, by simp [setmodeHeader, Instr.opName], rfl⟩

theorem setmodeDestinationOut : Statement (.setmodeDestinationOut) :=
  ⟨_, _, rfl, by simp [setmodeHeader, Instr.opName], rfl⟩

theorem setmodeDestinationAtop : Statement (.setmodeDestinationAtop) :=
  ⟨_, _, rfl, by simp [setmodeHeader, Instr.opName], rfl⟩

theorem setmodeAdd : Statement (.setmodeAdd) :=
  ⟨_, _, rfl, by simp [setmodeHeader, Instr.opName], rfl⟩

theorem setmodeSubtract : Statement (.setmodeSubtract) :=
  ⟨_, _, rfl, by simp [setmodeHeader, Instr.opName], rfl⟩

theorem setmodeMultiply : Statement (.setmodeMultiply) :=
  ⟨_, _, rfl, by simp [setmodeHeader, Instr.opName], rfl⟩

theorem setmodeAverage : Statement (.setmodeAverage) :=
  ⟨_, _, rfl, by simp [setmodeHeader, Instr.opName], rfl⟩

theorem setmodeScreen : Statement (.setmodeScreen) :=
  ⟨_, _, rfl, by simp [setmodeHeader, Instr.opName], rfl⟩

theorem setmodeOverlay : Statement (.setmodeOverlay) :=
  ⟨_, _, rfl, by simp [setmodeHeader, Instr.opName], rfl⟩

theorem setmodeHardLight : Statement (.setmodeHardLight) :=
  ⟨_, _, rfl, by simp [setmodeHeader, Instr.opName], rfl⟩

theorem setmodeSoftLight : Statement (.setmodeSoftLight) :=
  ⟨_, _, rfl, by simp [setmodeHeader, Instr.opName], rfl⟩

end Sys2Proof.Laws.PacketLength
end

