-- ==== Sys2Proof/Laws/Pixels.lean ====
section
/-! SUPPORT. What a merge, a clear and a tone-map leave in each element and byte, for one pixel and for a list of pixels;
the pixels of a rectangle; the bounds of a clipped rectangle. -/
namespace Sys2Proof.Machine

/-! ## Indices -/

/-- idx is four times the pixel number plus the channel index (20_memory R70). -/
theorem idx_eq (p : Params) (x y : Nat) (c : Chan) : idx p x y c = 4 * pixelNumber p x y + c.index := by
  simp only [idx]
  omega

theorem chan_index_lt (c : Chan) : c.index < 4 := by cases c <;> decide

theorem chan_index_inj {c d : Chan} (h : c.index = d.index) : c = d := by
  cases c <;> cases d <;> first | rfl | exact absurd h (by decide)

theorem mem_chan_all (c : Chan) : c ∈ Chan.all := by cases c <;> decide

theorem pixelNumber_inj {p : Params} {x y x' y' : Nat} (hx : x < p.width) (hx' : x' < p.width)
    (h : pixelNumber p x y = pixelNumber p x' y') : x = x' ∧ y = y' := by
  simp only [pixelNumber] at h
  have hm := congrArg (· % p.width) h
  simp only [Nat.mul_add_mod_self_right, Nat.mod_eq_of_lt hx, Nat.mod_eq_of_lt hx'] at hm
  subst hm
  exact ⟨rfl, Nat.eq_of_mul_eq_mul_right (by omega) (Nat.add_right_cancel h)⟩

theorem idx_inj {p : Params} {x y x' y' : Nat} {c d : Chan} (hx : x < p.width) (hx' : x' < p.width)
    (h : idx p x y c = idx p x' y' d) : x = x' ∧ y = y' ∧ c = d := by
  rw [idx_eq, idx_eq] at h
  have hc := chan_index_lt c
  have hd := chan_index_lt d
  obtain ⟨h1, h2⟩ := pixelNumber_inj hx hx' (show pixelNumber p x y = pixelNumber p x' y' by omega)
  exact ⟨h1, h2, chan_index_inj (by omega)⟩

theorem pixelNumber_lt {p : Params} {x y : Nat} (hx : x < p.width) (hy : y < p.height) :
    pixelNumber p x y < p.width * p.height := by
  simp only [pixelNumber]
  have := Nat.mul_le_mul_right p.width (show y + 1 ≤ p.height by omega)
  rw [Nat.add_mul, Nat.one_mul, Nat.mul_comm p.height] at this
  omega

theorem element_lt {p : Params} {n : Nat} (h : n < p.width * p.height) (c : Chan) :
    4 * n + c.index < memSize p := by
  have hc := chan_index_lt c
  simp only [memSize, Nat.mul_assoc]
  omega

theorem idx_lt {p : Params} {x y : Nat} (hx : x < p.width) (hy : y < p.height) (c : Chan) :
    idx p x y c < memSize p := by
  rw [idx_eq]
  exact element_lt (pixelNumber_lt hx hy) c

/-! ## One pixel -/

/-- Four writes, one for each channel, read back. -/
theorem cellRead_write4 {n : Nat} {m : List (Nat × BitVec n)} (h : m.Pairwise fun c d => c.1 < d.1) (f : Chan → Nat)
    (inj : ∀ c d, f c = f d → c = d) (v : Chan → BitVec n) (c : Chan) :
    cellRead (cellWrite (cellWrite (cellWrite (cellWrite m (f .r) (v .r)) (f .g) (v .g)) (f .b) (v .b)) (f .a) (v .a))
      (f c) = v c := by
  have h0 := cellWrite_pairwise h (f .r) (v .r)
  have h1 := cellWrite_pairwise h0 (f .g) (v .g)
  have h2 := cellWrite_pairwise h1 (f .b) (v .b)
  have ne : ∀ c d, c ≠ d → f c ≠ f d := fun c d hcd he => hcd (inj c d he)
  cases c
  · rw [cellRead_write_other _ (ne _ _ (by decide)), cellRead_write_other _ (ne _ _ (by decide)),
      cellRead_write_other _ (ne _ _ (by decide)), cellRead_write_same _ h]
  · rw [cellRead_write_other _ (ne _ _ (by decide)), cellRead_write_other _ (ne _ _ (by decide)),
      cellRead_write_same _ h0]
  · rw [cellRead_write_other _ (ne _ _ (by decide)), cellRead_write_same _ h1]
  · rw [cellRead_write_same _ h2]

theorem element_inj (n : Nat) (c d : Chan) (h : 4 * n + c.index = 4 * n + d.index) : c = d :=
  chan_index_inj (by omega)

theorem idx_chan_inj (p : Params) (x y : Nat) (c d : Chan) (h : idx p x y c = idx p x y d) : c = d := by
  rw [idx_eq, idx_eq] at h
  exact element_inj _ c d h

/-- The value a merge stores for a channel is the one that channel's formula gives (40_blend R142, R145). -/
theorem merge_read_chan {s : State} (h : s.hdr.Pairwise fun c d => c.1 < d.1) (p : Nat) (src : Quad F64) (c : Chan) :
    (s.merge p src).hdrRead (4 * p + c.index) =
      s.stored (4 * p + c.index) ((mergeValues s p src).get c) :=
  cellRead_write4 h (fun c => 4 * p + c.index) (element_inj p)
    (fun c => s.stored (4 * p + c.index) ((mergeValues s p src).get c)) c

/-- A merge leaves every element of every other pixel. -/
theorem merge_read_other (s : State) {p i : Nat} (src : Quad F64) (h : ∀ c : Chan, i ≠ 4 * p + c.index) :
    (s.merge p src).hdrRead i = s.hdrRead i := by
  have h0 := h .r
  have h1 := h .g
  have h2 := h .b
  have h3 := h .a
  simp only [Chan.index] at h0 h1 h2 h3
  unfold State.merge State.storePixel State.hdrRead State.hdrWrite
  rw [cellRead_write_other _ h3, cellRead_write_other _ h2, cellRead_write_other _ h1, cellRead_write_other _ h0]

theorem merge_pairwise {s : State} (h : s.hdr.Pairwise fun c d => c.1 < d.1) (p : Nat) (src : Quad F64) :
    (s.merge p src).hdr.Pairwise fun c d => c.1 < d.1 :=
  cellWrite_pairwise (cellWrite_pairwise (cellWrite_pairwise (cellWrite_pairwise h _ _) _ _) _ _) _ _

/-- A merge keeps the form of the HDR memory. -/
theorem merge_wf {s : State} (h : Memory.wf (memSize s.params) s.hdr) {p : Nat}
    (hp : p < s.params.width * s.params.height) (src : Quad F64) :
    Memory.wf (memSize s.params) (s.merge p src).hdr :=
  cellWrite_wf (cellWrite_wf (cellWrite_wf (cellWrite_wf h (element_lt hp .r) _) (element_lt hp .g) _)
    (element_lt hp .b) _) (element_lt hp .a) _

/-- What a merge computes for a pixel depends on the HDR memory only through that pixel's elements. -/
theorem mergeValues_congr {s : State} {m : List (Nat × Elem)} {p : Nat} (src : Quad F64)
    (h : ∀ c : Chan, cellRead m (4 * p + c.index) = s.hdrRead (4 * p + c.index)) :
    mergeValues ({ s with hdr := m } : State) p src = mergeValues s p src := by
  have h0 := h .r
  have h1 := h .g
  have h2 := h .b
  have h3 := h .a
  simp only [Chan.index, State.hdrRead] at h0 h1 h2 h3
  simp only [mergeValues, srcAlpha, dstAlpha, State.hdrValue, State.hdrRead, h0, h1, h2, h3]

/-- A clear writes +0.0 into the pixel's elements (41_compositor R190). -/
theorem clearPixel_hdr (s : State) (x y : Nat) :
    (s.clearPixel x y).hdr = cellWrite (cellWrite (cellWrite (cellWrite s.hdr (idx s.params x y .r) 0)
      (idx s.params x y .g) 0) (idx s.params x y .b) 0) (idx s.params x y .a) 0 := rfl

theorem clearPixel_read_chan {s : State} (h : s.hdr.Pairwise fun c d => c.1 < d.1) (x y : Nat) (c : Chan) :
    (s.clearPixel x y).hdrRead (idx s.params x y c) = 0 :=
  cellRead_write4 h (fun c => idx s.params x y c) (idx_chan_inj s.params x y) (fun _ => (0 : Elem)) c

theorem clearPixel_read_other (s : State) {x y i : Nat} (h : ∀ c : Chan, i ≠ idx s.params x y c) :
    (s.clearPixel x y).hdrRead i = s.hdrRead i := by
  rw [State.hdrRead, clearPixel_hdr, cellRead_write_other _ (h .a), cellRead_write_other _ (h .b),
    cellRead_write_other _ (h .g), cellRead_write_other _ (h .r)]
  rfl

theorem clearPixel_pairwise {s : State} (h : s.hdr.Pairwise fun c d => c.1 < d.1) (x y : Nat) :
    (s.clearPixel x y).hdr.Pairwise fun c d => c.1 < d.1 := by
  rw [clearPixel_hdr]
  exact cellWrite_pairwise (cellWrite_pairwise (cellWrite_pairwise (cellWrite_pairwise h _ _) _ _) _ _) _ _

/-- A clear keeps the form of the HDR memory. -/
theorem clearPixel_wf {s : State} (h : Memory.wf (memSize s.params) s.hdr) {x y : Nat} (hx : x < s.params.width)
    (hy : y < s.params.height) : Memory.wf (memSize s.params) (s.clearPixel x y).hdr := by
  rw [clearPixel_hdr]
  exact cellWrite_wf (cellWrite_wf (cellWrite_wf (cellWrite_wf h (idx_lt hx hy .r) _) (idx_lt hx hy .g) _)
    (idx_lt hx hy .b) _) (idx_lt hx hy .a) _

/-- The byte the tone-map writes depends on the HDR memory, the ranges and the parameters only (42_tonemap R211). -/
theorem toneByte_congr {s t : State} (hh : t.hdr = s.hdr) (hl : t.rlo = s.rlo) (hr : t.rhi = s.rhi)
    (hp : t.params = s.params) (x y : Nat) (c : Chan) : toneByte t x y c = toneByte s x y c := by
  simp only [toneByte, mapChan, State.hdrValue, State.hdrRead, hh, hl, hr, hp]

/-- TMPIX writes the pixel's four bytes (42_tonemap R214). -/
theorem tonePixel_surf (s : State) (x y : Nat) :
    (s.tonePixel x y).surf = cellWrite (cellWrite (cellWrite (cellWrite s.surf (idx s.params x y .r) (toneByte s x y .r))
      (idx s.params x y .g) (toneByte s x y .g)) (idx s.params x y .b) (toneByte s x y .b))
      (idx s.params x y .a) (toneByte s x y .a) := rfl

theorem tonePixel_read_chan {s : State} (h : s.surf.Pairwise fun c d => c.1 < d.1) (x y : Nat) (c : Chan) :
    (s.tonePixel x y).surfRead (idx s.params x y c) = toneByte s x y c := by
  rw [State.surfRead, tonePixel_surf]
  exact cellRead_write4 h (fun c => idx s.params x y c) (idx_chan_inj s.params x y) (fun c => toneByte s x y c) c

theorem tonePixel_read_other (s : State) {x y i : Nat} (h : ∀ c : Chan, i ≠ idx s.params x y c) :
    (s.tonePixel x y).surfRead i = s.surfRead i := by
  rw [State.surfRead, tonePixel_surf, cellRead_write_other _ (h .a), cellRead_write_other _ (h .b),
    cellRead_write_other _ (h .g), cellRead_write_other _ (h .r)]
  rfl

theorem tonePixel_pairwise {s : State} (h : s.surf.Pairwise fun c d => c.1 < d.1) (x y : Nat) :
    (s.tonePixel x y).surf.Pairwise fun c d => c.1 < d.1 := by
  rw [tonePixel_surf]
  exact cellWrite_pairwise (cellWrite_pairwise (cellWrite_pairwise (cellWrite_pairwise h _ _) _ _) _ _) _ _

/-- TMPIX keeps the form of SURF. -/
theorem tonePixel_wf {s : State} (h : Memory.wf (memSize s.params) s.surf) {x y : Nat} (hx : x < s.params.width)
    (hy : y < s.params.height) : Memory.wf (memSize s.params) (s.tonePixel x y).surf := by
  rw [tonePixel_surf]
  exact cellWrite_wf (cellWrite_wf (cellWrite_wf (cellWrite_wf h (idx_lt hx hy .r) _) (idx_lt hx hy .g) _)
    (idx_lt hx hy .b) _) (idx_lt hx hy .a) _

/-! ## Lists of pixels

`inBuffer` pixels of a list without repeats have elements of their own, so the loops work pixel by pixel. -/

/-- Elements of different pixels differ. -/
theorem idx_ne_of_ne {p : Params} {q q' : Nat × Nat} (hq : q.1 < p.width) (hq' : q'.1 < p.width) (h : q ≠ q')
    (c d : Chan) : idx p q.1 q.2 c ≠ idx p q'.1 q'.2 d := by
  intro he
  obtain ⟨h1, h2, -⟩ := idx_inj hq hq' he
  exact h (Prod.ext h1 h2)

theorem mergeAll_cons (s : State) (src : Nat × Nat → Quad F64) (q : Nat × Nat) (l : List (Nat × Nat)) :
    s.mergeAll src (q :: l) = (s.merge (pixelNumber s.params q.1 q.2) (src q)).mergeAll src l := rfl

theorem clearAll_cons (s : State) (q : Nat × Nat) (l : List (Nat × Nat)) :
    s.clearAll (q :: l) = (s.clearPixel q.1 q.2).clearAll l := rfl

theorem toneAll_cons (s : State) (q : Nat × Nat) (l : List (Nat × Nat)) :
    s.toneAll (q :: l) = (s.tonePixel q.1 q.2).toneAll l := rfl

/-- The merges of a list of pixels leave every element of every other pixel. -/
theorem mergeAll_read_other (s : State) (src : Nat × Nat → Quad F64) {l : List (Nat × Nat)} {i : Nat}
    (h : ∀ q ∈ l, ∀ c : Chan, i ≠ idx s.params q.1 q.2 c) : (s.mergeAll src l).hdrRead i = s.hdrRead i := by
  induction l generalizing s with
  | nil => rfl
  | cons q rest ih =>
    rw [mergeAll_cons, ih _ (by simpa using fun a b hab => h (a, b) (List.mem_cons_of_mem _ hab)),
      merge_read_other]
    intro c
    rw [← idx_eq]
    exact h q (List.mem_cons_self ..) c

/-- The merges of a list of pixels leave in each of them what its own merge, in the state before them all, gives
(41_compositor R185). -/
theorem mergeAll_read_chan {s : State} (hs : s.hdr.Pairwise fun c d => c.1 < d.1) (src : Nat × Nat → Quad F64)
    {l : List (Nat × Nat)} (hl : l.Nodup) (hx : ∀ q ∈ l, q.1 < s.params.width) {q : Nat × Nat} (hq : q ∈ l)
    (c : Chan) :
    (s.mergeAll src l).hdrRead (idx s.params q.1 q.2 c) = s.stored (idx s.params q.1 q.2 c)
      ((mergeValues s (pixelNumber s.params q.1 q.2) (src q)).get c) := by
  induction l generalizing s with
  | nil => exact absurd hq (List.not_mem_nil)
  | cons a rest ih =>
    obtain ⟨ha, hrest⟩ := List.nodup_cons.1 hl
    have hax := hx a (List.mem_cons_self ..)
    have hother : ∀ q ∈ rest, ∀ c d, idx s.params a.1 a.2 c ≠ idx s.params q.1 q.2 d := fun q hq c d =>
      idx_ne_of_ne hax (hx q (List.mem_cons_of_mem _ hq)) (fun he => ha (he ▸ hq)) c d
    rw [mergeAll_cons]
    rcases List.mem_cons.1 hq with rfl | hq'
    · rw [mergeAll_read_other _ _ (by simpa using fun a b hab d => hother (a, b) hab c d), idx_eq,
        merge_read_chan hs]
    · have hread : ∀ d : Chan, (s.merge (pixelNumber s.params a.1 a.2) (src a)).hdrRead
          (4 * pixelNumber s.params q.1 q.2 + d.index) = s.hdrRead (4 * pixelNumber s.params q.1 q.2 + d.index) := by
        intro d
        refine merge_read_other s _ fun c => ?_
        rw [← idx_eq, ← idx_eq]
        exact (hother q hq' c d).symm
      have := ih (s := s.merge (pixelNumber s.params a.1 a.2) (src a)) (merge_pairwise hs _ _) hrest
        (by simpa using fun a b hab => hx (a, b) (List.mem_cons_of_mem _ hab)) hq'
      obtain ⟨m, hm⟩ := merge_hdr_only s (pixelNumber s.params a.1 a.2) (src a)
      rw [hm] at this hread ⊢
      rw [mergeValues_congr _ hread] at this
      exact this

/-- The merges of a list of pixels keep the form of the HDR memory. -/
theorem mergeAll_wf {s : State} (h : Memory.wf (memSize s.params) s.hdr) (src : Nat × Nat → Quad F64)
    {l : List (Nat × Nat)} (hl : ∀ q ∈ l, q.1 < s.params.width ∧ q.2 < s.params.height) :
    Memory.wf (memSize s.params) (s.mergeAll src l).hdr := by
  induction l generalizing s with
  | nil => exact h
  | cons a rest ih =>
    have ha := hl a (List.mem_cons_self ..)
    have := ih (s := s.merge (pixelNumber s.params a.1 a.2) (src a))
      (by simpa using merge_wf h (pixelNumber_lt ha.1 ha.2) (src a))
      (by simpa using fun a b hab => hl (a, b) (List.mem_cons_of_mem _ hab))
    simpa [mergeAll_cons] using this

/-- The clears of a list of pixels leave every element of every other pixel. -/
theorem clearAll_read_other (s : State) {l : List (Nat × Nat)} {i : Nat}
    (h : ∀ q ∈ l, ∀ c : Chan, i ≠ idx s.params q.1 q.2 c) : (s.clearAll l).hdrRead i = s.hdrRead i := by
  induction l generalizing s with
  | nil => rfl
  | cons q rest ih =>
    rw [clearAll_cons, ih _ (by simpa using fun a b hab => h (a, b) (List.mem_cons_of_mem _ hab)),
      clearPixel_read_other s (h q (List.mem_cons_self ..))]

/-- The clears of a list of pixels leave +0.0 in their elements. -/
theorem clearAll_read_chan {s : State} (hs : s.hdr.Pairwise fun c d => c.1 < d.1) {l : List (Nat × Nat)}
    (hl : l.Nodup) (hx : ∀ q ∈ l, q.1 < s.params.width) {q : Nat × Nat} (hq : q ∈ l) (c : Chan) :
    (s.clearAll l).hdrRead (idx s.params q.1 q.2 c) = 0 := by
  induction l generalizing s with
  | nil => exact absurd hq (List.not_mem_nil)
  | cons a rest ih =>
    obtain ⟨ha, hrest⟩ := List.nodup_cons.1 hl
    rw [clearAll_cons]
    rcases List.mem_cons.1 hq with rfl | hq'
    · rw [clearAll_read_other _ (by
        simpa using fun x y hxy d => idx_ne_of_ne (hx q (List.mem_cons_self ..))
          (hx (x, y) (List.mem_cons_of_mem _ hxy)) (fun he => ha (he ▸ hxy)) c d), clearPixel_read_chan hs]
    · have := ih (s := s.clearPixel a.1 a.2) (clearPixel_pairwise hs _ _) hrest
        (by simpa using fun a b hab => hx (a, b) (List.mem_cons_of_mem _ hab)) hq'
      simpa using this

/-- The clears of a list of pixels keep the form of the HDR memory. -/
theorem clearAll_wf {s : State} (h : Memory.wf (memSize s.params) s.hdr) {l : List (Nat × Nat)}
    (hl : ∀ q ∈ l, q.1 < s.params.width ∧ q.2 < s.params.height) :
    Memory.wf (memSize s.params) (s.clearAll l).hdr := by
  induction l generalizing s with
  | nil => exact h
  | cons a rest ih =>
    have ha := hl a (List.mem_cons_self ..)
    have := ih (s := s.clearPixel a.1 a.2) (by simpa using clearPixel_wf h ha.1 ha.2)
      (by simpa using fun a b hab => hl (a, b) (List.mem_cons_of_mem _ hab))
    simpa [clearAll_cons] using this

/-- The tone-maps of a list of pixels leave every byte of every other pixel. -/
theorem toneAll_read_other (s : State) {l : List (Nat × Nat)} {i : Nat}
    (h : ∀ q ∈ l, ∀ c : Chan, i ≠ idx s.params q.1 q.2 c) : (s.toneAll l).surfRead i = s.surfRead i := by
  induction l generalizing s with
  | nil => rfl
  | cons q rest ih =>
    rw [toneAll_cons, ih _ (by simpa using fun a b hab => h (a, b) (List.mem_cons_of_mem _ hab)),
      tonePixel_read_other s (h q (List.mem_cons_self ..))]

/-- The tone-maps of a list of pixels leave in each its tone-map bytes (42_tonemap R215). -/
theorem toneAll_read_chan {s : State} (hs : s.surf.Pairwise fun c d => c.1 < d.1) {l : List (Nat × Nat)}
    (hl : l.Nodup) (hx : ∀ q ∈ l, q.1 < s.params.width) {q : Nat × Nat} (hq : q ∈ l) (c : Chan) :
    (s.toneAll l).surfRead (idx s.params q.1 q.2 c) = toneByte s q.1 q.2 c := by
  induction l generalizing s with
  | nil => exact absurd hq (List.not_mem_nil)
  | cons a rest ih =>
    obtain ⟨ha, hrest⟩ := List.nodup_cons.1 hl
    rw [toneAll_cons]
    rcases List.mem_cons.1 hq with rfl | hq'
    · rw [toneAll_read_other _ (by
        simpa using fun x y hxy d => idx_ne_of_ne (hx q (List.mem_cons_self ..))
          (hx (x, y) (List.mem_cons_of_mem _ hxy)) (fun he => ha (he ▸ hxy)) c d), tonePixel_read_chan hs]
    · have := ih (s := s.tonePixel a.1 a.2) (tonePixel_pairwise hs _ _) hrest
        (by simpa using fun a b hab => hx (a, b) (List.mem_cons_of_mem _ hab)) hq'
      rw [toneByte_congr (s := s) (by simp) (by simp) (by simp) (by simp)] at this
      simpa using this

/-- The tone-maps of a list of pixels keep the form of SURF. -/
theorem toneAll_wf {s : State} (h : Memory.wf (memSize s.params) s.surf) {l : List (Nat × Nat)}
    (hl : ∀ q ∈ l, q.1 < s.params.width ∧ q.2 < s.params.height) :
    Memory.wf (memSize s.params) (s.toneAll l).surf := by
  induction l generalizing s with
  | nil => exact h
  | cons a rest ih =>
    have ha := hl a (List.mem_cons_self ..)
    have := ih (s := s.tonePixel a.1 a.2) (by simpa using tonePixel_wf h ha.1 ha.2)
      (by simpa using fun a b hab => hl (a, b) (List.mem_cons_of_mem _ hab))
    simpa [toneAll_cons] using this

/-! ## Rectangles -/

theorem covers_iff (r : Rect) (x y : Nat) :
    r.covers x y = true ↔ r.x0 ≤ x ∧ x < r.x1 ∧ r.y0 ≤ y ∧ y < r.y1 := by
  simp [Rect.covers, and_assoc]

/-- The pixels of a rectangle are those it covers (00_scope R21). -/
theorem mem_pixels {r : Rect} {q : Nat × Nat} : q ∈ r.pixels ↔ r.covers q.1 q.2 = true := by
  rw [covers_iff]
  simp only [Rect.pixels, List.mem_flatMap, List.mem_map, List.mem_range'_1]
  constructor
  · rintro ⟨y, hy, x, hx, rfl⟩
    exact ⟨by omega, by omega, by omega, by omega⟩
  · rintro ⟨h1, h2, h3, h4⟩
    exact ⟨q.2, by omega, q.1, by omega, rfl⟩

/-- No pixel of a rectangle comes twice (41_compositor R184). -/
theorem pixels_nodup (r : Rect) : r.pixels.Nodup := by
  unfold Rect.pixels
  rw [List.nodup_flatMap]
  refine ⟨fun y _ => (List.nodup_range' (step := 1) ..).map fun a b hab => (Prod.ext_iff.1 hab).1, ?_⟩
  refine List.Pairwise.imp ?_ (List.nodup_range' (s := r.y0) (n := r.y1 - r.y0) (step := 1))
  intro a b hab q hqa hqb
  simp only [List.mem_map] at hqa hqb
  obtain ⟨x, -, rfl⟩ := hqa
  obtain ⟨x', -, h⟩ := hqb
  exact hab (Prod.ext_iff.1 h).2.symm

/-- A span is not empty and lies within its size (41_compositor R182). -/
theorem clipSpan_bounds {size : Nat} {lo hi : EInt} {a b : Nat} (h : clipSpan size lo hi = some (a, b)) :
    a < b ∧ b ≤ size := by
  have hmin : ∀ n, (EInt.fin size).min hi = .fin n → n ≤ size := by
    intro n hn
    unfold EInt.min at hn
    split at hn
    · rename_i hlt
      subst hn
      simp only [EInt.lt, decide_eq_true_eq] at hlt
      omega
    · simp only [EInt.fin.injEq] at hn
      omega
  have hmax : ∀ n, (EInt.fin 0).max lo = .fin n → 0 ≤ n := by
    intro n hn
    unfold EInt.max at hn
    split at hn
    · rename_i hlt
      subst hn
      simp only [EInt.lt, decide_eq_true_eq] at hlt
      omega
    · simp only [EInt.fin.injEq] at hn
      omega
  unfold clipSpan at h
  split at h
  · rename_i m n hm hn
    have h1 := hmax _ hm
    have h2 := hmin _ hn
    split at h
    · simp only [Option.some.injEq, Prod.mk.injEq] at h
      omega
    · exact absurd h (by simp)
  · exact absurd h (by simp)

/-- A clipped rectangle is not empty and lies within the buffer (41_compositor R182). -/
theorem clip_rect_bounds {p : Params} {x y w h : Word} {r : Rect} (hc : clip p x y w h = .rect r) :
    r.x0 < r.x1 ∧ r.x1 ≤ p.width ∧ r.y0 < r.y1 ∧ r.y1 ≤ p.height := by
  simp only [clip] at hc
  split at hc
  · exact absurd hc (by simp)
  split at hc
  · exact absurd hc (by simp)
  split at hc
  · split at hc
    · rename_i hx hy
      have h1 := clipSpan_bounds hx
      have h2 := clipSpan_bounds hy
      simp only [Clip.rect.injEq] at hc
      subst hc
      exact ⟨h1.1, h1.2, h2.1, h2.2⟩
    · exact absurd hc (by simp)
  · exact absurd hc (by simp)

/-- PIXCOORD names a pixel of the buffer (41_compositor R181). -/
theorem pixcoord_bounds {p : Params} {x y : Word} {a b : Nat} (h : pixcoord p x y = some (a, b)) :
    a < p.width ∧ b < p.height := by
  unfold pixcoord at h
  split at h
  · split at h
    · exact absurd h (by simp)
    · simp only [Option.some.injEq, Prod.mk.injEq] at h
      omega
  · exact absurd h (by simp)

/-- The pixels of a clipped rectangle lie in the buffer. -/
theorem clip_pixels_lt {p : Params} {x y w h : Word} {r : Rect} (hc : clip p x y w h = .rect r) {q : Nat × Nat}
    (hq : q ∈ r.pixels) : q.1 < p.width ∧ q.2 < p.height := by
  have hb := clip_rect_bounds hc
  have := (covers_iff r q.1 q.2).1 (mem_pixels.1 hq)
  omega

end Sys2Proof.Machine
end

