-- ==== Sys2Proof/Laws/Sequencer.lean ====
section
/-! SUPPORT. What the decoder does with a run of words: the end of a packet, and a packet that does not end; what executing a
packet can be. -/
namespace Sys2Proof.Machine

/-- One word accepted. -/
theorem runHost_word (w : Word) (rest : List HostAct) {s : State} (h : s.ready = true) :
    runHost (.word w :: rest) s =
      match ({ s with host := rest } : State).accept w with
      | (t, none) => runHost rest t
      | (t, some (hdr, ops)) => execute hdr ops t := if_pos h

/-- One word kept waiting. -/
theorem runHost_wait (w : Word) (rest : List HostAct) {s : State} (h : s.ready = false) :
    runHost (.word w :: rest) s = .next { s with host := .word w :: rest } :=
  if_neg (by simp [h])

/-- The operand words that complete a packet under way are taken, and the packet is executed (30_encoding R118). -/
theorem runHost_complete (hdr : Word) (more : List Word) :
    ∀ (got : List Word) (rest : List HostAct) (s : State), s.ready = true → s.dstate = .collecting hdr got → more ≠ [] →
      got.length + more.length = operandCount (hdrOp hdr) →
      runHost (more.map .word ++ rest) s =
        execute hdr (got ++ more) { s with cpos := s.cpos + more.length, dstate := .idle, host := rest } := by
  induction more with
  | nil => intro got rest s _ _ h; exact absurd rfl h
  | cons w more ih =>
    intro got rest s hr hd _ hl
    simp only [List.length_cons] at hl
    rw [List.map_cons, List.cons_append, runHost_word _ _ hr]
    cases more with
    | nil =>
      have : got.length + 1 = operandCount (hdrOp hdr) := by simpa using hl
      simp [State.accept, hd, this]
    | cons w' more =>
      simp only [List.length_cons] at hl
      have h1 : ¬ got.length + 1 = operandCount (hdrOp hdr) := by omega
      simp only [State.accept, hd, h1, if_false]
      rw [ih (got ++ [w]) rest _ ?_ rfl (by simp) (by simp; omega)]
      · simp [Nat.add_assoc, Nat.add_comm, Nat.add_left_comm]
      · exact hr

/-- Words that do not complete a packet under way are collected, and the step goes on from there (10_state R48). -/
theorem runHost_collect (hdr : Word) (more : List Word) (rest : List HostAct) :
    ∀ (got : List Word) (s : State), s.ready = true → s.dstate = .collecting hdr got →
      s.host = more.map .word ++ rest → got.length + more.length < operandCount (hdrOp hdr) →
      runHost (more.map .word ++ rest) s =
        runHost rest { s with cpos := s.cpos + more.length, dstate := .collecting hdr (got ++ more), host := rest } := by
  induction more with
  | nil =>
    intro got s _ hd hh _
    simp only [List.map_nil, List.nil_append] at hh
    simp [← hd, ← hh]
  | cons w more ih =>
    intro got s hr hd hh hl
    simp only [List.length_cons] at hl
    have h1 : ¬ got.length + 1 = operandCount (hdrOp hdr) := by omega
    rw [List.map_cons, List.cons_append, runHost_word _ _ hr]
    simp only [State.accept, hd, h1, if_false]
    rw [ih (got ++ [w]) _ ?_ rfl rfl (by simp; omega)]
    · simp [Nat.add_assoc, Nat.add_comm]
    · exact hr

/-- Executing a packet gives a next state: an illegal packet's effect or its instruction's, the waiting host
accesses settled (30_encoding R118). -/
theorem execute_cases (hdr : Word) (ops : List Word) (s : State) :
    (∃ e, decodePacket hdr ops = .error e ∧ execute hdr ops s = .next ((s.illegal hdr).settle none)) ∨
      ∃ i t, decodePacket hdr ops = .ok i ∧ exec i s = .next t ∧
        execute hdr ops s = .next (t.settle (touchedRect i s)) := by
  cases h : decodePacket hdr ops with
  | error e => exact .inl ⟨e, rfl, by simp [execute, h]⟩
  | ok i =>
    obtain ⟨t, ht, -⟩ := exec_next_sameFrame i s
    exact .inr ⟨i, t, rfl, ht, by simp [execute, h, ht]⟩

/-- With no host access waiting, executing a packet that decodes is its instruction's meaning. -/
theorem execute_ok {hdr : Word} {ops : List Word} {s : State} {i : Instr} (h : decodePacket hdr ops = .ok i)
    (hl : s.late = []) : execute hdr ops s = exec i s := by
  obtain ⟨t, ht, hf⟩ := exec_next_sameFrame i s
  have : t.late = [] := by rw [hf.late, hl]
  simp [execute, h, ht, settle_of_none_waiting this]

end Sys2Proof.Machine
end

