-- ==== Sys2Proof/Tests/Slice0.lean ====
section
/-! SUPPORT. Tests, each expected value taken from spec/ (30_encoding, 95_test_vectors) or from the rule it names: the
WellFormed smoke, a written-out word for every constructor, one step for each instruction; then a witness for every
statement with hypotheses: values that meet them all together. -/
namespace Sys2Proof.Tests

-- One theorem after another: in parallel their kernel evaluations ask for more threads than the memory limit has room for.
set_option Elab.async false

open Sys2Proof Sys2Proof.Machine Sys2Proof.Claims

/-! ## Helpers -/

/-- The next state of an outcome; the reset state where there is none. -/
def nextOf : Host.Outcome State Fault Refusal → State
  | .next t => t
  | .fault _ => State.reset
  | .refused _ => State.reset

/-- Whether an outcome is a next state. -/
def isNext : Host.Outcome State Fault Refusal → Bool
  | .next _ => true
  | .fault _ => false
  | .refused _ => false

theorem eq_next {o : Host.Outcome State Fault Refusal} (h : isNext o = true) : o = .next (nextOf o) := by
  cases o <;> first | rfl | exact Bool.noConfusion h

/-- An instance of the given size: the default overlay family, room for two responses and one event. -/
def size (w h : Nat) : Params :=
  { width := w, height := h, bases := .standard, responseDepth := 2, presentDepth := 1 }

/-- A sound state of a 2 by 1 instance: HDR (0,0) = (100, 100, 100, 127.5), HDR (1,0) = (0, 0, 0, 255), SURF (0,0) =
(40, 20, 250, 128), GALPHA = 0.5, fill (100, 100, 100, 128). -/
def sound : State :=
  { State.resetOf (size 2 1) [(0, 40), (1, 20), (2, 250), (3, 128)] with
    hdr := [(0, 0x42C80000), (1, 0x42C80000), (2, 0x42C80000), (3, 0x42FF0000), (7, 0x437F0000)]
    galpha := 0x3FE0000000000000
    fill := { r := 0x4059000000000000, g := 0x4059000000000000, b := 0x4059000000000000, a := 0x4060000000000000 } }

/-- The same after a DegenerateRange fault, P3's STATUS. -/
def stopped : State :=
  { sound with
    status := { fcode := 3, halted := true, fop := 0x03 }
    faultInfo := some (.degenerateRange .g 0x4014000000000000 0x4014000000000000) }

/-- The state after one step on a packet. -/
def ran (s : State) (ws : List Word) : State := nextOf (step (s.loadWords ws))

/-! ## Well-formedness -/

/-- A selector of a named mode is no word of the SETMODE row (log 9). -/
theorem test_wellFormed_refuses_named_selector : (Instr.setmode 19).wellFormed = false := by decide

theorem test_wellFormed_takes_unknown_selector : (Instr.setmode 20).wellFormed = true := by decide

/-! ## Decoding: a word for every constructor, from 30_encoding R101, R110, R112, R121 -/

theorem test_decode_nop : decode [0b0] = .ok .nop := by decide
theorem test_decode_setmode : decode [0b10100_00000001] = .ok (.setmode 20) := by decide
theorem test_decode_setga : decode [0b10, 7] = .ok (.setga 7) := by decide
theorem test_decode_setrange : decode [0b10_00000_00000011, 7, 9] = .ok (.setrange .b 7 9) := by decide
theorem test_decode_setfill : decode [0b100, 1, 2, 3, 4] = .ok (.setfill 1 2 3 4) := by decide
theorem test_decode_setfillDa : decode [0b1_00_00000_00000100, 1, 2, 3, 4] = .ok (.setfillDa 1 2 3 4) := by decide
theorem test_decode_blendpx : decode [0b10000, 1, 2, 3, 4, 5, 6] = .ok (.blendpx 1 2 3 4 5 6) := by decide
theorem test_decode_blendpxDa :
    decode [0b1_00_00000_00010000, 1, 2, 3, 4, 5, 6] = .ok (.blendpxDa 1 2 3 4 5 6) := by decide
theorem test_decode_fillrect : decode [0b10001, 1, 2, 3, 4] = .ok (.fillrect 1 2 3 4) := by decide
theorem test_decode_clearrect : decode [0b10010, 1, 2, 3, 4] = .ok (.clearrect 1 2 3 4) := by decide
theorem test_decode_drawimg : decode [0b10011, 1, 2, 3, 4] = .ok (.drawimg 1 2 3 4) := by decide
theorem test_decode_tonemap : decode [0b100000, 1, 2, 3, 4] = .ok (.tonemap 1 2 3 4) := by decide
theorem test_decode_tonemapall : decode [0b100001] = .ok .tonemapall := by decide
theorem test_decode_readpx : decode [0b110000, 1, 2] = .ok (.readpx 1 2) := by decide
theorem test_decode_mappx : decode [0b110001, 1, 2] = .ok (.mappx 1 2) := by decide
theorem test_decode_extract : decode [0b110010, 1, 2, 3, 4] = .ok (.extract 1 2 3 4) := by decide
theorem test_decode_rdreg : decode [0b01001_0_00_00000_00111111] = .ok (.rdreg (.rhi .b)) := by decide
theorem test_decode_setmodeSource : decode [0b00000_00000001] = .ok .setmodeSource := by decide
theorem test_decode_setmodeDestination : decode [0b00001_00000001] = .ok .setmodeDestination := by decide
theorem test_decode_setmodeClear : decode [0b00010_00000001] = .ok .setmodeClear := by decide
theorem test_decode_setmodeXor : decode [0b00011_00000001] = .ok .setmodeXor := by decide
theorem test_decode_setmodeSourceOver : decode [0b00100_00000001] = .ok .setmodeSourceOver := by decide
theorem test_decode_setmodeSourceIn : decode [0b00101_00000001] = .ok .setmodeSourceIn := by decide
theorem test_decode_setmodeSourceOut : decode [0b00110_00000001] = .ok .setmodeSourceOut := by decide
theorem test_decode_setmodeSourceAtop : decode [0b00111_00000001] = .ok .setmodeSourceAtop := by decide
theorem test_decode_setmodeDestinationOver : decode [0b01000_00000001] = .ok .setmodeDestinationOver := by decide
theorem test_decode_setmodeDestinationIn : decode [0b01001_00000001] = .ok .setmodeDestinationIn := by decide
theorem test_decode_setmodeDestinationOut : decode [0b01010_00000001] = .ok .setmodeDestinationOut := by decide
theorem test_decode_setmodeDestinationAtop : decode [0b01011_00000001] = .ok .setmodeDestinationAtop := by decide
theorem test_decode_setmodeAdd : decode [0b01100_00000001] = .ok .setmodeAdd := by decide
theorem test_decode_setmodeSubtract : decode [0b01101_00000001] = .ok .setmodeSubtract := by decide
theorem test_decode_setmodeMultiply : decode [0b01110_00000001] = .ok .setmodeMultiply := by decide
theorem test_decode_setmodeAverage : decode [0b01111_00000001] = .ok .setmodeAverage := by decide
theorem test_decode_setmodeScreen : decode [0b10000_00000001] = .ok .setmodeScreen := by decide
theorem test_decode_setmodeOverlay : decode [0b10001_00000001] = .ok .setmodeOverlay := by decide
theorem test_decode_setmodeHardLight : decode [0b10010_00000001] = .ok .setmodeHardLight := by decide
theorem test_decode_setmodeSoftLight : decode [0b10011_00000001] = .ok .setmodeSoftLight := by decide

/-- ENC-5 to ENC-8: the grounds of 30_encoding R114. -/
theorem test_decode_refuses :
    decode [0x5] = .error .unknownOp ∧ decode [0x200021] = .error .reservedBits ∧
      decode [0x8003, 0, 0x3FF0000000000000] = .error .unusedField ∧ decode [0x10003F] = .error .reservedIndex := by
  decide

/-- A CLEARRECT packet as table bits, its operand words above the header. -/
theorem test_tableWord : decodeTableWord 64 0x12 = some (.clearrect 0 0 0 0) ∧
    decodeTableWord 128 (0x20 + 5 * 2 ^ 64) = some (.tonemap 5 0 0 0) := by decide +kernel

/-! ## The assembler (P3, P5) -/

theorem test_assemble_setrange : assembleLine State.reset.params "SETRANGE r, -100, 100" =
    some [.setrange .r 0xC059000000000000 0x4059000000000000] := by decide +kernel
theorem test_assemble_setga : assembleLine State.reset.params "SETGA 0.5 ; half" =
    some [.setga 0x3FE0000000000000] := by decide +kernel

/-! ## Arithmetic -/

/-- 42_tonemap R213's table: Q(127.5), Q(128.5), Q(254.50000000000003), Q(-0.3). -/
theorem test_quantize : [0x405FE00000000000, 0x4060100000000000, 0x406FD00000000001, 0xBFD3333333333333].map
    (fun w : Word => quantize (F64.ofBits w)) = [128, 128, 255, 0] := by decide +kernel

/-- S2: As = 128 / 255 has the pattern 0x3FE0101010101010. -/
theorem test_divide : ((F64.ofNat 128).div f255).bits 0 = 0x3FE0101010101010 := by decide +kernel

/-! ## Configuration and registers (95 CFG) -/

theorem test_nop : ran sound [0] = { sound with cpos := 1 } := by decide +kernel
/-- CFG-8. -/
theorem test_setmode_unknown : (ran .reset [0x1401]).status = { fcode := 2, halted := true, fop := 1 } := by
  decide +kernel
/-- CFG-9. -/
theorem test_setga_above_one : statusWord (ran .reset [2, 0x3FF8000000000000]).status = 0x20104 := by decide +kernel
/-- CFG-11: -0.0 is accepted. -/
theorem test_setga_minus_zero : (ran .reset [2, 0x8000000000000000]).galpha = 0x8000000000000000 := by decide +kernel
/-- CFG-12: -0 == +0. -/
theorem test_setrange_zeros : statusWord (ran .reset [3, 0x8000000000000000, 0]).status = 0x30103 := by decide +kernel
/-- CFG-13. -/
theorem test_setrange_nan : (ran .reset [3, 0x7FF8000000000000, 0x3FF0000000000000]).rlo.r = 0x7FF8000000000000 := by
  decide +kernel
/-- P2. -/
theorem test_setfill : (ran .reset [4, 1, 2, 3, 4]).fill = { r := 1, g := 2, b := 3, a := 4 } := by decide +kernel
/-- CFG-14. -/
theorem test_setfillDa : (ran .reset [0x8004, 1, 2, 3, 4]).fill.a = 0x406FE00000000000 := by decide +kernel
/-- ENC-10. -/
theorem test_rdreg_geom : (ran (.resetOf (size 3 5) []) [0xF003F]).responses =
    [0x0000000500000003] := by decide +kernel
/-- A response stream that is full: the word waits (70_reset R301). -/
theorem test_backpressure : ran { sound with responses := [7, 8] } [0x3F] =
    { sound with responses := [7, 8], host := [.word 0x3F] } := by decide +kernel
/-- The same stream after the host has taken a response. -/
theorem test_room : (ran { sound with responses := [8] } [0x3F]).responses = [8, 0] := by decide +kernel
/-- The step that `withFetchWord` asks for is taken even where the stream was full. -/
theorem test_withFetchWord : (nextOf (step (State.withFetchWord { sound with responses := [7, 8] } 64 0x3F))).responses =
    [7, 8, 0] := by decide +kernel
/-- A host write and read of byte 0 and a read of byte 4, outside the pixel, during BLENDPX (20_memory R88). -/
def raced : State := ran { sound with late := [.write 0 9 false, .read 0 9 5, .read 4 7 5] }
  [0x10, 0, 0, word255, 0, 0, word255]
theorem test_raced : raced.hostReads = [5, 7] ∧ raced.late = [] ∧ raced.surfRead 0 ≠ 9 := by decide +kernel
/-- EXC-2. -/
theorem test_rdreg_halted : (ran stopped [0x3F]).responses = [0x30103] := by decide +kernel

/-! ## The modes (95 BL-V0)

`merged w` is the red and the alpha element stored by a BLENDPX of (200, 200, 200, 127.5) over (100, 100, 100, 127.5)
after the SETMODE packet [w]. -/

def v0 : State := { sound with galpha := 0x3FF0000000000000 }

def merged (w : Word) : Elem × Elem :=
  let t := ran (ran v0 [w]) [0x10, 0, 0, 0x4069000000000000, 0x4069000000000000, 0x4069000000000000, 0x405FE00000000000]
  (t.hdrRead 0, t.hdrRead 3)

theorem test_setmodeSource : merged 0x0001 = (0x42C80000, 0x42FF0000) := by decide +kernel
theorem test_setmodeDestination : merged 0x0101 = (0x42480000, 0x42FF0000) := by decide +kernel
theorem test_setmodeClear : merged 0x0201 = (0x00000000, 0x00000000) := by decide +kernel
theorem test_setmodeXor : merged 0x0301 = (0x42960000, 0x42FF0000) := by decide +kernel
theorem test_setmodeSourceOver : merged 0x0401 = (0x42FA0000, 0x433F4000) := by decide +kernel
theorem test_setmodeSourceIn : merged 0x0501 = (0x42480000, 0x427F0000) := by decide +kernel
theorem test_setmodeSourceOut : merged 0x0601 = (0x42480000, 0x427F0000) := by decide +kernel
theorem test_setmodeSourceAtop : merged 0x0701 = (0x42960000, 0x42FF0000) := by decide +kernel
theorem test_setmodeDestinationOver : merged 0x0801 = (0x42C80000, 0x433F4000) := by decide +kernel
theorem test_setmodeDestinationIn : merged 0x0901 = (0x41C80000, 0x427F0000) := by decide +kernel
theorem test_setmodeDestinationOut : merged 0x0A01 = (0x41C80000, 0x427F0000) := by decide +kernel
theorem test_setmodeDestinationAtop : merged 0x0B01 = (0x42960000, 0x42FF0000) := by decide +kernel
theorem test_setmodeAdd : merged 0x0C01 = (0x43160000, 0x433F4000) := by decide +kernel
theorem test_setmodeSubtract : merged 0x0D01 = (0xC2480000, 0x433F4000) := by decide +kernel
theorem test_setmodeMultiply : merged 0x0E01 = (0x42806E6E, 0x433F4000) := by decide +kernel
theorem test_setmodeAverage : merged 0x0F01 = (0x42C80000, 0x433F4000) := by decide +kernel
theorem test_setmodeScreen : merged 0x1001 = (0x4307C8C9, 0x433F4000) := by decide +kernel
theorem test_setmodeOverlay : merged 0x1101 = (0x42EE2323, 0x433F4000) := by decide +kernel
theorem test_setmodeHardLight : merged 0x1201 = (0x42EE2323, 0x433F4000) := by decide +kernel
theorem test_setmodeSoftLight : merged 0x1301 = (0x42B2A0A1, 0x433F4000) := by decide +kernel

/-! ## The compositor, the tone-map and read-back (95 CMP, TM, P1, P3, P4) -/

/-- CMP-P4: rnd(1.5) = 2 is outside a 2-wide buffer. -/
theorem test_blendpx_out_of_bounds :
    statusWord (ran .reset [0x10, 0x3FF8000000000000, 0, 0, 0, 0, 0]).status = 0x100101 := by decide +kernel
/-- P1's first command. -/
theorem test_blendpx : (ran .reset [0x10, 0, 0, 0x406FE00000000000, 0, 0, 0x406FE00000000000]).surf =
    [(0, 255), (3, 255)] := by decide +kernel
/-- CMP-DA: the NaN alpha word is ignored. -/
theorem test_blendpxDa : (ran .reset [0x8010, 0, 0, 0x4024000000000000, 0x4034000000000000, 0x403E000000000000,
    0x7FF8000000000000]).hdr = [(0, 0x41200000), (1, 0x41A00000), (2, 0x41F00000), (3, 0x437F0000)] := by decide +kernel
/-- CMP-C3: [0,1) x [0,1). -/
theorem test_fillrect : (ran .reset [0x11, 0xBFF0000000000000, 0xBFF0000000000000, 0x4000000000000000,
    0x4000000000000000]).hdr = [(3, 0x437F0000)] := by decide +kernel
/-- CMP-C9: x + w is NaN. -/
theorem test_fillrect_nan : statusWord (ran .reset [0x11, 0xFFF0000000000000, 0, 0x7FF0000000000000,
    0x3FF0000000000000]).status = 0x110104 := by decide +kernel
/-- P4: CLEARRECT clips to [1,2) x [0,1). -/
theorem test_clearrect : (ran sound [0x12, 0x3FF0000000000000, 0, 0x4014000000000000, 0x4014000000000000]).hdr =
    [(0, 0x42C80000), (1, 0x42C80000), (2, 0x42C80000), (3, 0x42FF0000)] := by decide +kernel
/-- P4: DRAWIMG of the bytes (40, 20, 250, 128) over (100, 100, 100, 255) in subtract. -/
theorem test_drawimg : (ran { v0 with mode := .subtract, hdr := [(0, 0x42C80000), (1, 0x42C80000), (2, 0x42C80000),
    (3, 0x437F0000)] } [0x13, 0, 0, 0x3FF0000000000000, 0x3FF0000000000000]).hdr =
    [(0, 0x429FD7D8), (1, 0x42B3EBEC), (2, 0xC1CBEBEC), (3, 0x437F0000)] := by decide +kernel
/-- P3: the range -100 to 100 maps 0 to 127.5 and to the byte 128. -/
theorem test_tonemap : (ran { State.reset with rlo := { r := 0xC059000000000000, g := 0, b := 0, a := 0 }, rhi :=
    { r := 0x4059000000000000, g := word255, b := word255, a := word255 } }
    [0x20, 0, 0, 0x3FF0000000000000, 0x3FF0000000000000]).surf = [(0, 128)] := by decide +kernel
/-- TONEMAPALL emits one Present(0, 0, W, H). -/
theorem test_tonemapall : (ran sound [0x21]).presents = [{ x0 := 0, y0 := 0, x1 := 2, y1 := 1 }] := by decide +kernel
theorem test_readpx : (ran sound [0x30, 0, 0]).responses =
    [0x4059000000000000, 0x4059000000000000, 0x4059000000000000, 0x405FE00000000000] := by decide +kernel
/-- EXC-5. -/
theorem test_readpx_halted : (ran stopped [0x30, 0, 0]).responses = [] := by decide +kernel
/-- P3. -/
theorem test_mappx : (ran { State.reset with rlo := { r := 0xC059000000000000, g := 0, b := 0, a := 0 }, rhi :=
    { r := 0x4059000000000000, g := word255, b := word255, a := word255 } } [0x31, 0, 0]).responses =
    [0x405FE00000000000, 0, 0, 0] := by decide +kernel
/-- CFG-16 on pixel (1,0) of `sound`. -/
theorem test_extract : (ran sound [0x32, 0x3FF0000000000000, 0, 0x4014000000000000, 0x4014000000000000]).responses =
    [0x0000000100000001, 0, 0, 0, 0x406FE00000000000] := by decide +kernel

/-! ## Witnesses: values that meet every hypothesis of a statement together -/

/-- `sound` with one host action to come. -/
def asked (a : HostAct) : State := { sound with host := [a] }
/-- Any operand word, here 1.0. -/
def one : Word := 0x3FF0000000000000
/-- 1.5, which rounds to 2. -/
def oneAndHalf : Word := 0x3FF8000000000000
/-- 2.0. -/
def two : Word := 0x4000000000000000
/-- A NaN. -/
def nanWord : Word := 0x7FF8000000000000

/-- The rectangle of the second pixel. -/
def right : Rect := { x0 := 1, y0 := 0, x1 := 2, y1 := 1 }

theorem sound_params : sound.params.legal := by decide
theorem sound_inv : sound.Inv :=
  ⟨sound_params, by decide +kernel, by decide +kernel, by decide +kernel, by decide, by decide +kernel⟩
theorem stopped_inv : stopped.Inv :=
  ⟨sound_params, by decide +kernel, by decide +kernel, by decide +kernel, by decide, by decide +kernel⟩

/-- The rectangle (1, 0, 5, 5) of P4 is clipped to the second pixel. -/
theorem clip_right : clip sound.params one 0 0x4014000000000000 0x4014000000000000 = .rect right := by decide +kernel
theorem pixcoord_left : pixcoord sound.params 0 0 = some (0, 0) := by decide +kernel
theorem covers_right : right.covers 1 0 = true := by decide
theorem running : sound.status.halted = false := rfl

theorem exec_next (i : Instr) (s : State) : exec i s = .next (nextOf (exec i s)) := by cases i <;> rfl

theorem witness_DecodeOfEncode : (Instr.setmode 31).WellFormed ∧ Instr.WellFormed (.blendpxDa 1 2 3 4 5 nanWord) := by
  decide
theorem witness_EncodeOfDecode : decode [0x8010, 1, 2, 3, 4, 5, nanWord] = .ok (.blendpxDa 1 2 3 4 5 nanWord) := by
  decide

/-- R114's grounds, one by one: OP 5, bit 21, DA in SETRANGE, CH in BLENDPX, MSEL in NOP, RIDX in NOP, RIDX 16. -/
theorem witness_IllegalHeader : IllegalHeader 0x5 ∧ IllegalHeader 0x200021 ∧ IllegalHeader 0x8003 ∧
    IllegalHeader 0x102010 ∧ IllegalHeader 0x100 ∧ IllegalHeader 0x10000 ∧ IllegalHeader 0x10003F :=
  ⟨.inl (by intro n; cases n <;> decide), .inr (.inl (by decide)),
    .inr (.inr (.inr (.inr (.inl (by decide))))), .inr (.inr (.inr (.inl (by decide)))),
    .inr (.inr (.inl (by decide))), .inr (.inr (.inr (.inr (.inr (.inl (by decide)))))),
    .inr (.inr (.inr (.inr (.inr (.inr (by decide))))))⟩
/-- The last register index that exists is no ground. -/
theorem witness_legalHeader : ¬ IllegalHeader 0xF003F := by
  rintro (h | h | h | h | h | h | h)
  · exact h .rdreg (by decide)
  all_goals revert h; decide
theorem witness_IllegalHeaderRaisesIllegalCommand : sound.status.halted = false ∧
    (sound.loadWords [0x8003, 0, one]).dstate = .idle ∧ sound.ready = true ∧ sound.late = [] ∧
    ([0, one] : List Word).length = operandCount (hdrOp 0x8003) ∧
    (sound.loadWords [0x8003, 0, one]).host = ((0x8003 : Word) :: [0, one]).map .word ++ [] ∧
    ([] : List Word).length = operandCount (hdrOp 0xF003F) ∧
    (sound.loadWords [0xF003F]).host = ((0xF003F : Word) :: []).map .word ++ [] ∧
    ∀ n : OpName, (0x05 : BitVec 8) ≠ n.code :=
  ⟨rfl, rfl, rfl, rfl, by decide, rfl, by decide, rfl, by intro n; cases n <;> decide⟩

theorem witness_WordsTravelLittleEndian : 7 < 8 ∧ 0 < 8 := by decide
theorem witness_ClearAllNamesTheWholeBuffer : (size 65535 1).legal := by decide

/-- `sound` inside a SETRANGE packet with DA = 1, its first operand word received, and more words sent. -/
def inside (ws : List Word) : State :=
  { sound with dstate := .collecting 0x8003 [0], host := ws.map .word }
theorem witness_StepTakesOneWholePacket : (sound.loadWords [0x8003, 0, one, 0x5]).ready = true ∧
    ([0, one] : List Word).length = operandCount (hdrOp 0x8003) ∧
    (sound.loadWords [0x8003, 0, one, 0x5]).dstate = .idle ∧
    (sound.loadWords [0x8003, 0, one, 0x5]).host = ((0x8003 : Word) :: [0, one]).map .word ++ [.word 0x5] ∧
    ([0] : List Word) ++ [one] = [0, one] ∧ ([one] : List Word) ≠ [] ∧
    (inside [one, 0x5]).dstate = .collecting 0x8003 [0] ∧ (inside [one, 0x5]).ready = true ∧
    (inside [one, 0x5]).host = ([one] : List Word).map .word ++ [.word 0x5] := by decide
theorem witness_StepRunsDecodedInstruction : (sound.loadWords [0x30, 0, 0]).dstate = .idle ∧
    (sound.loadWords [0x30, 0, 0]).ready = true ∧ sound.late = [] ∧
    (sound.loadWords [0x30, 0, 0]).host = ([0x30, 0, 0] : List Word).map .word ++ [] ∧
    decode [0x30, 0, 0] = .ok (.readpx 0 0) := by decide
/-- ENC-9. -/
theorem witness_PartialPacketChangesOnlyTheDecoder : (sound.loadWords [0x10, 0]).ready = true ∧
    ([] : List Word).length + ([0] : List Word).length < operandCount (hdrOp 0x10) ∧
    (sound.loadWords [0x10, 0]).dstate = .idle ∧
    (sound.loadWords [0x10, 0]).host = ((0x10 : Word) :: [0]).map .word ++ [] ∧
    ([0] : List Word).length + ([0, 0, 0, 0] : List Word).length < operandCount (hdrOp 0x10) ∧
    ({ sound with dstate := .collecting 0x10 [0], host := [.word 0, .word 0, .word 0, .word 0] } : State).host =
      ([0, 0, 0, 0] : List Word).map .word ++ [] := by decide
theorem witness_EmptyStreamHoldsTheState : stopped.host = [] := rfl
theorem witness_CposCountsTheWordsTaken : HostAct.reset ∉ (sound.loadWords [0x3F, 0x10]).host ∧
    step (sound.loadWords [0x3F, 0x10]) = .next (ran sound [0x3F, 0x10]) ∧ (asked .reset).host = .reset :: [] :=
  ⟨by decide, eq_next (by decide +kernel), rfl⟩

/-- SETGA 1.5 faults. -/
theorem witness_FaultingCommandWritesStatusOnly : sound.status.halted = false ∧ sound.late = [] ∧
    execute 0x2 [oneAndHalf] sound = .next (nextOf (execute 0x2 [oneAndHalf] sound)) ∧
    (nextOf (execute 0x2 [oneAndHalf] sound)).status.halted = true :=
  ⟨rfl, rfl, eq_next (by decide +kernel), by decide +kernel⟩
/-- One command for each fault a command has of its own, and one that has none. -/
theorem witness_CommandsRaiseTheirOwnFaultsOnly :
    raises sound.params (.readpx two 0) = some (.outOfBounds two 0) ∧
    raises sound.params (.setmode 20) = some (.unknownBlendMode 20) ∧
    raises sound.params (.setrange .a one one) = some (.degenerateRange .a one one) ∧
    raises sound.params (.extract 0 nanWord 0 0) = some (.badOperand [0, nanWord, 0, 0]) ∧
    raises sound.params (.setga one) = none ∧ exec (.setga one) sound = .next (nextOf (exec (.setga one) sound)) :=
  ⟨by decide +kernel, by decide +kernel, by decide +kernel, by decide +kernel, by decide +kernel, rfl⟩
theorem witness_HaltedRunsOnlyNopAndRdreg : stopped.status.halted = true ∧
    (stopped.loadWords [0x30, 0, 0]).dstate = .idle ∧ stopped.ready = true ∧ stopped.late = [] ∧
    ([0, 0] : List Word).length = operandCount (hdrOp 0x30) ∧
    (stopped.loadWords [0x30, 0, 0]).host = ((0x30 : Word) :: [0, 0]).map .word ++ [] := by decide
theorem witness_HaltedUntilReset : (stopped.loadWords [5]).status.halted = true ∧
    HostAct.reset ∉ (stopped.loadWords [5]).host ∧ step (stopped.loadWords [5]) = .next (ran stopped [5]) ∧
    (asked .reset).host = .reset :: [] :=
  ⟨rfl, by decide, eq_next (by decide +kernel), rfl⟩

/-- CMP-P4: rnd(1.5) = 2 = W; CMP-P1: rnd(-0.5) = 0. -/
theorem witness_PixcoordNamesTheNearestPixel : sound.status.halted = false ∧
    pixcoord sound.params oneAndHalf 0 = none ∧
    pixcoord sound.params 0xBFE0000000000000 0xBFE0000000000000 = some (0, 0) := by decide +kernel
theorem witness_CommandsReachOnlyIndicesThatExist :
    touchedRect (.fillrect one 0 0x4014000000000000 0x4014000000000000) sound = some right ∧
    pixcoord sound.params one 0 = some (1, 0) ∧ exec (.readpx one 0) sound = .next (nextOf (exec (.readpx one 0) sound)) ∧
    clip sound.params one 0 0x4014000000000000 0x4014000000000000 = .rect right :=
  ⟨by decide +kernel, by decide +kernel, exec_next _ _, clip_right⟩
/-- CMP-C5, CMP-C9 and P4: the three answers of CLIP, which the rectangle commands tell apart. -/
theorem witness_RectCommand : clip sound.params 0 0 0 two = .empty ∧
    clip sound.params 0xFFF0000000000000 0 0x7FF0000000000000 one = .bad ∧
    clip sound.params one 0 0x4014000000000000 0x4014000000000000 = .rect right := by decide +kernel

/-- Headers one bit beyond those NOP, SETMODE, SETRANGE, SETFILL, RDREG may use. -/
theorem witness_OtherHeadersFault : sound.status.halted = false ∧ sound.late = [] ∧
    ((0x100000 : Word).extractLsb' 0 8 = 0x00 ∧ (0x100000 : Word) &&& ~~~0 ≠ (0x00 : BitVec 8).setWidth 64) ∧
    ((0x2001 : Word).extractLsb' 0 8 = 0x01 ∧ (0x2001 : Word) &&& ~~~0x1F00 ≠ (0x01 : BitVec 8).setWidth 64) ∧
    ((0x8003 : Word).extractLsb' 0 8 = 0x03 ∧ (0x8003 : Word) &&& ~~~0x6000 ≠ (0x03 : BitVec 8).setWidth 64) ∧
    ((0x2004 : Word).extractLsb' 0 8 = 0x04 ∧ (0x2004 : Word) &&& ~~~0x8000 ≠ (0x04 : BitVec 8).setWidth 64) ∧
    ((0x10003F : Word).extractLsb' 0 8 = 0x3F ∧ (0x10003F : Word) &&& ~~~0xF0000 ≠ (0x3F : BitVec 8).setWidth 64) := by
  decide
theorem witness_SetmodeSelectsByNumber : sound.status.halted = false ∧ (19 : BitVec 5).toNat < 20 ∧
    20 ≤ (20 : BitVec 5).toNat := by decide
theorem witness_NamedSetmodesSelectTheirModes : sound.status.halted = false ∧
    Instr.setmodeSoftLight.selects = some .softLight := by decide
/-- The ends of the interval, -0.0 among them, and the values next to it. -/
theorem witness_SetgaAcceptsExactlyTheUnitInterval : sound.status.halted = false ∧
    (f0.le (F64.ofBits 0x8000000000000000) = true ∧ (F64.ofBits 0x8000000000000000).le f1 = true) ∧
    (f0.le (F64.ofBits one) = true ∧ (F64.ofBits one).le f1 = true) ∧
    ¬ (f0.le (F64.ofBits 0x8000000000000001) = true ∧ (F64.ofBits 0x8000000000000001).le f1 = true) ∧
    ¬ (f0.le (F64.ofBits 0x3FF0000000000001) = true ∧ (F64.ofBits 0x3FF0000000000001).le f1 = true) := by
  decide +kernel
/-- CFG-12 and CFG-13. -/
theorem witness_SetrangeWritesBothEnds : sound.status.halted = false ∧
    (F64.ofBits one).eq (F64.ofBits 0) = false ∧ (F64.ofBits 0).eq (F64.ofBits 0x8000000000000000) = true ∧
    F64.ofBits nanWord = .nan ∧ Chan.b ≠ Chan.a := by decide +kernel
theorem witness_SetfillWritesTheColour : sound.status.halted = false := rfl
theorem witness_RdregRespondsTheRegister : Reg.geom.index = 15 ∧ Reg.status.index = 0 := by decide
theorem witness_GeomIsHardwired : sound.params.legal ∧ step (sound.loadWords [0x21]) = .next (ran sound [0x21]) :=
  ⟨sound_params, eq_next (by decide +kernel)⟩
theorem witness_OnlySetCommandsWriteRegisters :
    exec .setmodeClear sound = .next (nextOf (exec .setmodeClear sound)) ∧
    (nextOf (exec .setmodeClear sound)).mode ≠ sound.mode := ⟨exec_next _ _, by decide⟩
theorem witness_ConfigurationTouchesNoPixel : (Instr.setga one).opName ∈ [OpName.nop, .setmode, .setga, .setrange, .setfill] ∧
    exec (.setga one) sound = .next (nextOf (exec (.setga one) sound)) := ⟨by decide, exec_next _ _⟩

theorem witness_ReadpxRespondsTheStoredPixel : sound.status.halted = false ∧
    pixcoord sound.params 0 0 = some (0, 0) ∧ pixcoord sound.params oneAndHalf 0 = none :=
  ⟨rfl, pixcoord_left, by decide +kernel⟩
theorem witness_MappxRespondsTheRangeMap : sound.status.halted = false ∧
    pixcoord sound.params one 0 = some (1, 0) ∧ pixcoord sound.params two 0 = none := by decide +kernel
theorem witness_ExtractStreamsTheRectangle : sound.params.legal ∧ sound.status.halted = false ∧
    clip sound.params one 0 0x4014000000000000 0x4014000000000000 = .rect right ∧ right.covers 1 0 = true :=
  ⟨sound_params, rfl, clip_right, covers_right⟩
theorem witness_ReadbackOnlyResponds : (Instr.readpx 0 0).opName ∈ [OpName.readpx, .mappx, .extract, .rdreg] ∧
    exec (.readpx 0 0) sound = .next (nextOf (exec (.readpx 0 0) sound)) ∧
    (nextOf (exec (.readpx 0 0) sound)).status = sound.status := ⟨by decide, exec_next _ _, by decide +kernel⟩

theorem witness_BlendpxMergesOnePixel : sound.Inv ∧ sound.status.halted = false ∧
    pixcoord sound.params 0 0 = some (0, 0) ∧ pixcoord sound.params oneAndHalf 0 = none :=
  ⟨sound_inv, rfl, pixcoord_left, by decide +kernel⟩
theorem witness_FillrectMergesEveryPixel : sound.Inv ∧ sound.status.halted = false ∧
    clip sound.params one 0 0x4014000000000000 0x4014000000000000 = .rect right := ⟨sound_inv, rfl, clip_right⟩
theorem witness_DrawimgMergesTheSurfacePixels : sound.Inv ∧ sound.status.halted = false ∧
    clip sound.params one 0 0x4014000000000000 0x4014000000000000 = .rect right := ⟨sound_inv, rfl, clip_right⟩
theorem witness_ClearrectZeroesTheRectangle : sound.Inv ∧ sound.status.halted = false ∧
    clip sound.params one 0 0x4014000000000000 0x4014000000000000 = .rect right := ⟨sound_inv, rfl, clip_right⟩
theorem witness_TonemapRewritesSurfOnly : sound.Inv ∧ sound.status.halted = false ∧
    clip sound.params one 0 0x4014000000000000 0x4014000000000000 = .rect right := ⟨sound_inv, rfl, clip_right⟩
/-- Element 3, the last of the first pixel, lies outside the rectangle of the second. -/
theorem witness_CommandsTouchOnlyTheirRectangle : sound.Inv ∧
    exec (.clearrect one 0 0x4014000000000000 0x4014000000000000) sound =
      .next (nextOf (exec (.clearrect one 0 0x4014000000000000 0x4014000000000000) sound)) ∧
    touchedRect (.clearrect one 0 0x4014000000000000 0x4014000000000000) sound = some right ∧
    right.coversIndex sound.params 3 = false ∧ right.coversIndex sound.params 4 = true :=
  ⟨sound_inv, exec_next _ _, by decide +kernel, by decide, by decide⟩
theorem witness_PixelOrderDoesNotShow : sound.Inv ∧ [((0 : Nat), (0 : Nat)), (1, 0)].Perm [(1, 0), (0, 0)] ∧
    [((0 : Nat), (0 : Nat)), (1, 0)].Nodup ∧
    ∀ q ∈ [((0 : Nat), (0 : Nat)), (1, 0)], q.1 < sound.params.width ∧ q.2 < sound.params.height :=
  ⟨sound_inv, by decide, by decide, by decide⟩
theorem witness_TonemapIgnoresTheBlendRegisters : (Instr.mappx 0 0).opName ∈ [OpName.tonemap, .tonemapall, .mappx] ∧
    exec (.mappx 0 0) sound = .next (nextOf (exec (.mappx 0 0) sound)) := ⟨by decide, exec_next _ _⟩
theorem witness_ClearedPixelsReadZero : sound.Inv ∧ sound.status.halted = false ∧
    clip sound.params one 0 0x4014000000000000 0x4014000000000000 = .rect right ∧
    exec (.clearrect one 0 0x4014000000000000 0x4014000000000000) sound =
      .next (nextOf (exec (.clearrect one 0 0x4014000000000000 0x4014000000000000) sound)) ∧
    right.covers 1 0 = true ∧ pixcoord sound.params one 0 = some (1, 0) :=
  ⟨sound_inv, rfl, clip_right, exec_next _ _, covers_right, by decide +kernel⟩

/-- `sound` in mode source and in mode destination. -/
def sourceMode : State := { sound with mode := .source }
def destinationMode : State := { sound with mode := .destination }

/-- S6: GALPHA = 0.5, a pixel (100, 50, 255, 255). -/
theorem witness_SourceModeRoundTrip : sourceMode.Inv ∧ sourceMode.status.halted = false ∧ sourceMode.mode = .source ∧
    pixcoord sourceMode.params 0 0 = some (0, 0) ∧
    exec (.blendpx 0 0 0x4059000000000000 0x4049000000000000 word255 word255) sourceMode =
      .next (nextOf (exec (.blendpx 0 0 0x4059000000000000 0x4049000000000000 word255 word255) sourceMode)) :=
  ⟨⟨sound_params, by decide +kernel, by decide +kernel, by decide +kernel, by decide, by decide +kernel⟩, rfl, rfl,
    pixcoord_left, exec_next _ _⟩
/-- The second pixel of `sound` is opaque. -/
theorem witness_OpaqueDestinationIsKept : destinationMode.Inv ∧ destinationMode.mode = .destination ∧
    1 < destinationMode.params.width * destinationMode.params.height ∧
    destinationMode.hdrRead (4 * 1 + 3) = 0x437F0000 ∧ F64.widen (destinationMode.hdrRead (4 * 1)) ≠ .nan ∧
    F64.widen (destinationMode.hdrRead (4 * 1 + 1)) ≠ .nan ∧ F64.widen (destinationMode.hdrRead (4 * 1 + 2)) ≠ .nan :=
  ⟨⟨sound_params, by decide +kernel, by decide +kernel, by decide +kernel, by decide, by decide +kernel⟩, rfl,
    by decide, by decide, by decide +kernel, by decide +kernel, by decide +kernel⟩

theorem witness_SeparableModeFormulas : BlendMode.softLight ∈ [BlendMode.add, .subtract, .multiply, .average, .screen,
    .overlay, .hardLight, .softLight] := by decide
theorem witness_AlphaFunctionClasses : BlendMode.softLight ∈ [BlendMode.sourceOver, .destinationOver, .add, .subtract,
      .multiply, .average, .screen, .overlay, .hardLight, .softLight] ∧
    BlendMode.destinationIn ∈ [BlendMode.sourceIn, .destinationIn] ∧
    BlendMode.destinationAtop ∈ [BlendMode.source, .destinationAtop] ∧
    BlendMode.sourceAtop ∈ [BlendMode.destination, .sourceAtop] ∧
    ((F64.ofNat 2).mul (F64.ofBits one)).isFinite = true ∧
    ((F64.ofNat 2).mul (F64.ofBits 0x0000000000000001)).isFinite = true := by decide +kernel
/-- 255 / 2 with 53 bits; 127 / 2 is a tie of whole numbers, 2^53 + 1 one of 53-bit numbers, 2^53 and 2^53 + 2. -/
theorem witness_RoundingIsToNearestEven : 0 < 53 ∧ 0 < 2 ∧ Representable 53 127 ∧
    2 * ((127 : Int) - roundHalfEven 127 2 * 2).natAbs = 2 ∧ Representable 53 (2 ^ 53 + 2) ∧
    roundPlaces 53 (2 ^ 53 + 1) 1 = 2 ^ 53 :=
  ⟨by decide, by decide, ⟨127, 0, by decide, rfl⟩, by decide, ⟨2 ^ 52 + 1, 1, by decide, rfl⟩, by decide +kernel⟩
theorem witness_PatternsAndValuesAgree : F64.ofBits 0x000FFFFFFFFFFFFF ≠ .nan ∧ F64.ofBits 0xFFF0000000000000 ≠ .nan := by
  decide +kernel
/-- The exponent fields where the clauses meet: 0, 1, 254, and 255 with and without a fraction. -/
theorem witness_NarrowUndoesWiden : F64.widen 0x80000001 ≠ .nan ∧ F64.widen 0x7F800000 ≠ .nan ∧
    ((0x007FFFFF : Elem).extractLsb' 23 8).toNat = 0 ∧ ((0x00800000 : Elem).extractLsb' 23 8).toNat = 1 ∧
    ((0x7F7FFFFF : Elem).extractLsb' 23 8).toNat = 254 ∧
    (((0x7F800000 : Elem).extractLsb' 23 8).toNat = 255 ∧ ((0x7F800000 : Elem).extractLsb' 0 23).toNat = 0) ∧
    (((0xFF800001 : Elem).extractLsb' 23 8).toNat = 255 ∧ ((0xFF800001 : Elem).extractLsb' 0 23).toNat ≠ 0) := by
  decide +kernel
/-- NaN, 0, 255 and the tie 127.5. -/
theorem witness_QuantizerSaturatesAndRounds : (F64.fin true 0).le (F64.ofNat 0) = true ∧
    (F64.ofNat 255).le (F64.ofNat 255) = true ∧ (F64.fin false (255 * 2 ^ 1073)).le (F64.ofNat 255) = true ∧
    2 * (((255 * 2 ^ 1073 : Nat) : Int) - (quantize (.fin false (255 * 2 ^ 1073))).toNat * unit64).natAbs = unit64 := by
  decide +kernel
/-- `sound` with an infinite and with a NaN end. -/
def endless (w : Word) : State := { sound with rhi := { sound.rhi with g := w } }
theorem witness_RangeMapperNeverDividesByZero : sound.Inv ∧ (endless 0x7FF0000000000000).Inv ∧ (endless nanWord).Inv :=
  ⟨sound_inv, ⟨sound_params, by decide +kernel, by decide +kernel, by decide +kernel, by decide, by decide +kernel⟩,
    ⟨sound_params, by decide +kernel, by decide +kernel, by decide +kernel, by decide, by decide +kernel⟩⟩

theorem loaded_inv : (sound.loadWords [0x10, 0]).Inv :=
  ⟨sound_params, by decide +kernel, by decide +kernel, by decide +kernel, by decide, by decide +kernel⟩
theorem witness_StepKeepsTheInvariant : (sound.loadWords [0x10, 0]).Inv ∧
    step (sound.loadWords [0x10, 0]) = .next (ran sound [0x10, 0]) := ⟨loaded_inv, eq_next (by decide +kernel)⟩
theorem witness_ResetMeetsTheInvariant : sound.params.legal ∧ Memory.wf (memSize sound.params) sound.surf :=
  ⟨sound_params, by decide⟩
theorem witness_ResetRestoresAllButSurf : (asked .reset).host = .reset :: [] ∧ (asked .reset).late = [] ∧
    ({ inside [] with host := [.reset] } : State).host = .reset :: [] := ⟨rfl, rfl, rfl⟩

theorem asked_inv (a : HostAct) : (asked a).Inv := ⟨sound_params, sound_inv.2, sound_inv.3, sound_inv.4, rfl, sound_inv.6⟩
/-- The same inside a BLENDPX packet. -/
def during (a : HostAct) : State := { asked a with dstate := .collecting 0x10 [0] }
theorem during_inv (a : HostAct) : (during a).Inv :=
  ⟨sound_params, sound_inv.2, sound_inv.3, sound_inv.4, rfl, sound_inv.6⟩
/-- The last index of the port and the first it does not have, written and read. -/
theorem witness_HostPortReachesSurfOnly : (∀ a, (asked a).Inv ∧ (asked a).surfBusy = false) ∧
    (asked (.surfWrite 7 9)).host = .surfWrite 7 9 :: [] ∧
    (asked (.surfRead 8)).host ∈ [HostAct.surfWrite 8 0, .surfRead 8, .raceWrite 8 0, .raceRead 8].map (· :: []) ∧
    7 < memSize sound.params ∧ memSize sound.params ≤ 8 ∧ (∀ a, (during a).Inv ∧ (during a).surfBusy = true) ∧
    (during (.surfRead 7)).host = .surfRead 7 :: [] ∧ (asked (.raceWrite 7 9)).host = .raceWrite 7 9 :: [] :=
  ⟨fun a => ⟨asked_inv a, rfl⟩, rfl, by decide, by decide, by decide, fun a => ⟨during_inv a, rfl⟩, rfl, rfl⟩
theorem witness_HostTakesTheOldestFirst : ({ asked .takeResponse with responses := [1, 2] } : State).host =
    .takeResponse :: [] ∧ ({ asked .takePresent with presents := [right] } : State).presents = right :: [] ∧
    (asked (.word 0x3F)).host = .word 0x3F :: [] ∧
    ({ asked (.word 0x3F) with responses := [1, 2] } : State).params.responseDepth ≤ ([1, 2] : List Word).length ∧
    (HostAct.reset ∉ (asked (.word 0x3F)).host ∧ HostAct.takeResponse ∉ (asked (.word 0x3F)).host ∧
      HostAct.takePresent ∉ (asked (.word 0x3F)).host) ∧
    isNext (step (asked (.word 0x3F))) = true := by decide +kernel
/-- Two waiting writes of byte 3, outside the second pixel's rectangle, and a read of byte 4, its first. -/
def waiting : State := { sound with late := [.write 3 8 true, .write 3 9 false, .read 4 0 5] }
theorem witness_RacedHostWriteEndsWithOneOfTwoValues : Memory.wf (memSize waiting.params) waiting.surf ∧
    waiting.late = [.write 3 8 true] ++ .write 3 9 false :: [.read 4 0 5] ∧ NoWrite [.read 4 0 5] 3 ∧
    NoWrite waiting.late 4 ∧ (∀ r, some right = some r → r.coversIndex waiting.params 3 = false) ∧
    right.coversIndex waiting.params 4 = true :=
  ⟨by decide, rfl, by intro b w; simp, by intro b w; simp [waiting], by intro r h; cases h; decide, by decide⟩

end Sys2Proof.Tests
end

section
/-! Rounding to nearest, ties to even (00_scope R14). Distances are compared in multiples of the denominator, so no
rational number is used. -/
namespace Sys2Proof

open Sys2Proof.Claims

section
variable {p num den : Nat}

/-- The rounded whole number is the quotient or one more, at most half a unit away; exactly half only where it is
even. -/
theorem roundHalfEven_cases (num den : Nat) :
    (roundHalfEven num den = num / den ∧ (2 * (num % den) < den ∨ 2 * (num % den) = den ∧ num / den % 2 = 0)) ∨
      (roundHalfEven num den = num / den + 1 ∧
        (den < 2 * (num % den) ∨ 2 * (num % den) = den ∧ (num / den + 1) % 2 = 0)) := by
  unfold roundHalfEven
  by_cases hlow : 2 * (num % den) < den
  · exact .inl ⟨if_pos hlow, .inl hlow⟩
  by_cases hhigh : den < 2 * (num % den)
  · exact .inr ⟨by simp [hlow, hhigh], .inl hhigh⟩
  have htie : 2 * (num % den) = den := by omega
  simp only [hlow, hhigh, if_false]
  rcases Nat.mod_two_eq_zero_or_one (num / den) with heven | hodd
  · exact .inl ⟨by omega, .inr ⟨htie, heven⟩⟩
  · exact .inr ⟨by omega, .inr ⟨htie, by omega⟩⟩

theorem roundHalfEven_near (hden : 0 < den) :
    2 * ((num : Int) - roundHalfEven num den * den).natAbs ≤ den ∧
      (2 * ((num : Int) - roundHalfEven num den * den).natAbs = den → roundHalfEven num den % 2 = 0) := by
  have hdiv : (num : Int) = den * (num / den : Nat) + (num % den : Nat) := by
    exact_mod_cast (Nat.div_add_mod num den).symm
  have hmod : num % den < den := Nat.mod_lt _ hden
  rcases roundHalfEven_cases num den with ⟨hround, hside⟩ | ⟨hround, hside⟩
  · have hdist : (num : Int) - roundHalfEven num den * den = (num % den : Nat) := by rw [hround]; linarith
    rw [hdist, hround]
    omega
  · have hdist : (num : Int) - roundHalfEven num den * den = (num % den : Nat) - den := by
      rw [hround]; push_cast at hdiv ⊢; linarith
    rw [hdist, hround]
    omega

/-- No other whole number is nearer, and where another one is as near the rounded one is even. -/
theorem roundHalfEven_nearest (hden : 0 < den) (j : Nat) :
    ((num : Int) - roundHalfEven num den * den).natAbs ≤ ((num : Int) - j * den).natAbs ∧
      (j ≠ roundHalfEven num den →
        ((num : Int) - roundHalfEven num den * den).natAbs = ((num : Int) - j * den).natAbs →
        roundHalfEven num den % 2 = 0) := by
  obtain ⟨hhalf, htie⟩ := roundHalfEven_near (num := num) hden
  by_cases hj : j = roundHalfEven num den
  · subst hj
    exact ⟨le_rfl, fun hne => absurd rfl hne⟩
  have hapart : den ≤ ((num : Int) - roundHalfEven num den * den).natAbs + ((num : Int) - j * den).natAbs := by
    have hgap : (1 : Int) ≤ |(j : Int) - roundHalfEven num den| := Int.one_le_abs (by omega)
    have hscaled : (den : Int) ≤ |((j : Int) - roundHalfEven num den) * den| := by
      rw [abs_mul, Nat.abs_cast]
      exact le_mul_of_one_le_left (by omega) hgap
    have hsplit : ((j : Int) - roundHalfEven num den) * den
        = ((num : Int) - roundHalfEven num den * den) - ((num : Int) - j * den) := by ring
    have htriangle := abs_sub ((num : Int) - roundHalfEven num den * den) ((num : Int) - j * den)
    rw [hsplit] at hscaled
    zify
    exact hscaled.trans htriangle
  exact ⟨by omega, fun _ heq => htie (by omega)⟩

/-- The exponent of the last place kept of `num / den` with `p` significant bits. -/
def lastPlace (p num den : Nat) : Nat := (num / den).log2 + 1 - p

theorem roundPlaces_eq :
    roundPlaces p num den = roundHalfEven num (den * 2 ^ lastPlace p num den) * 2 ^ lastPlace p num den := rfl

/-- The distance of a multiple of the last place, counted in that place. -/
theorem distance_scaled (num den j e : Nat) :
    (num : Int) - (j * 2 ^ e : Nat) * den = (num : Int) - j * (den * 2 ^ e : Nat) := by
  push_cast
  ring

/-- The quotient is below 2^p last places. -/
theorem lt_mul_lastPlace (hden : 0 < den) : num < 2 ^ p * (den * 2 ^ lastPlace p num den) := by
  have hquot : num / den < 2 ^ (p + lastPlace p num den) :=
    calc num / den < 2 ^ ((num / den).log2 + 1) := Nat.lt_log2_self
      _ ≤ 2 ^ (p + lastPlace p num den) := Nat.pow_le_pow_right (by decide) (by unfold lastPlace; omega)
  rw [Nat.div_lt_iff_lt_mul hden, Nat.pow_add] at hquot
  linarith

/-- Where digits are dropped, the quotient is at least 2^(p - 1) last places. -/
theorem mul_lastPlace_le (hp : 0 < p) (hden : 0 < den) (he : 0 < lastPlace p num den) :
    2 ^ (p - 1) * (den * 2 ^ lastPlace p num den) ≤ num := by
  have hlog : p - 1 + lastPlace p num den = (num / den).log2 := by unfold lastPlace at he ⊢; omega
  have hquot : 2 ^ (p - 1 + lastPlace p num den) ≤ num / den := by
    rw [hlog]
    refine Nat.log2_self_le fun hzero => ?_
    simp only [lastPlace, hzero, Nat.log2_zero] at he
    omega
  rw [Nat.le_div_iff_mul_le hden, Nat.pow_add] at hquot
  linarith

theorem roundPlaces_representable (hp : 0 < p) (hden : 0 < den) : Representable p (roundPlaces p num den) := by
  rw [roundPlaces_eq]
  generalize hk : roundHalfEven num (den * 2 ^ lastPlace p num den) = k
  have hunit : 0 < den * 2 ^ lastPlace p num den := by positivity
  have hle : k ≤ 2 ^ p := by
    have hquot := (Nat.div_lt_iff_lt_mul hunit).2 (lt_mul_lastPlace (p := p) (num := num) hden)
    rcases roundHalfEven_cases num (den * 2 ^ lastPlace p num den) with ⟨hround, -⟩ | ⟨hround, -⟩ <;> omega
  rcases hle.lt_or_eq with hlt | rfl
  · exact ⟨k, _, hlt, rfl⟩
  · exact ⟨1, p + lastPlace p num den, Nat.one_lt_two_pow (by omega), by rw [Nat.pow_add, Nat.one_mul]⟩

/-- A number of `p` significant bits that is no multiple of 2^e is below 2^(p - 1) times it. -/
theorem representable_multiple_or_lt {m : Nat} (hm : Representable p m) (e : Nat) :
    (∃ j, m = j * 2 ^ e) ∨ (0 < e ∧ m < 2 ^ (p - 1) * 2 ^ e) := by
  obtain ⟨k, e', hk, rfl⟩ := hm
  by_cases he : e ≤ e'
  · refine .inl ⟨k * 2 ^ (e' - e), ?_⟩
    rw [Nat.mul_assoc, ← Nat.pow_add, Nat.sub_add_cancel he]
  · refine .inr ⟨by omega, ?_⟩
    calc k * 2 ^ e' < 2 ^ p * 2 ^ e' := Nat.mul_lt_mul_of_pos_right hk (by positivity)
      _ = 2 ^ (p + e') := (Nat.pow_add ..).symm
      _ ≤ 2 ^ (p - 1 + e) := Nat.pow_le_pow_right (by decide) (by omega)
      _ = 2 ^ (p - 1) * 2 ^ e := Nat.pow_add ..

/-- No number of `p` significant bits is nearer to the quotient than the rounded one: a multiple of the last place is
not, as the last place is rounded to the nearest, and any other lies below the quotient's binade, whose least number is
such a multiple. -/
theorem roundPlaces_nearest (hp : 0 < p) (hden : 0 < den) {m : Nat} (hm : Representable p m) :
    ((num : Int) - roundPlaces p num den * den).natAbs ≤ ((num : Int) - m * den).natAbs ∧
      (m ≠ roundPlaces p num den →
        ((num : Int) - roundPlaces p num den * den).natAbs = ((num : Int) - m * den).natAbs →
        roundPlaces p num den / 2 ^ lastPlace p num den % 2 = 0) := by
  have hunit : 0 < den * 2 ^ lastPlace p num den := by positivity
  rw [roundPlaces_eq, distance_scaled, Nat.mul_div_cancel _ (by positivity)]
  rcases representable_multiple_or_lt hm (lastPlace p num den) with ⟨j, rfl⟩ | ⟨he, hlt⟩
  · rw [distance_scaled]
    obtain ⟨hnear, htie⟩ := roundHalfEven_nearest (num := num) hunit j
    exact ⟨hnear, fun hne => htie fun hj => hne (by rw [hj])⟩
  · have hbinade := mul_lastPlace_le (num := num) hp hden he
    obtain ⟨hnear, -⟩ := roundHalfEven_nearest (num := num) hunit (2 ^ (p - 1))
    have hbelow : m * den < 2 ^ (p - 1) * (den * 2 ^ lastPlace p num den) := by
      calc m * den < 2 ^ (p - 1) * 2 ^ lastPlace p num den * den := Nat.mul_lt_mul_of_pos_right hlt hden
        _ = 2 ^ (p - 1) * (den * 2 ^ lastPlace p num den) := by ring
    have hfarther : ((num : Int) - roundHalfEven num (den * 2 ^ lastPlace p num den)
        * (den * 2 ^ lastPlace p num den : Nat)).natAbs < ((num : Int) - m * den).natAbs := by
      zify at hbelow hbinade
      push_cast at hnear ⊢
      omega
    exact ⟨hfarther.le, fun _ heq => absurd heq hfarther.ne⟩

/-- A number of `p` significant bits is its own rounding. -/
theorem roundPlaces_exact (hp : 0 < p) (hden : 0 < den) {m : Nat} (hm : Representable p m) :
    roundPlaces p (m * den) den = m := by
  obtain ⟨hnear, -⟩ := roundPlaces_nearest (num := m * den) hp hden hm
  have hzero : ((m : Int) - roundPlaces p (m * den) den) * den = 0 := by
    push_cast at hnear
    rw [sub_mul]
    omega
  have hden' : (den : Int) ≠ 0 := by omega
  have := (mul_eq_zero.1 hzero).resolve_right hden'
  omega

end

/-- Settles O49: the last place is rounded to nearest even, and numbers outside the quotient's binade are farther. -/
theorem roundingIsToNearestEven : Obligations.RoundingIsToNearestEven := by
  refine ⟨fun p num den hp hden => ⟨roundPlaces_representable hp hden, fun m hm => ?_⟩, fun num den hden => ?_⟩
  · exact roundPlaces_nearest hp hden hm
  · exact roundHalfEven_near hden

end Sys2Proof
end

section
/-! The layout of a floating-point pattern as sign, exponent field and fraction (00_scope R15), for binary64 and
binary32 alike: `a` exponent bits above `b` fraction bits. -/
namespace Sys2Proof

section
variable {a b : Nat}

/-- The sign bit is the highest one. -/
theorem signBit_getLsbD (w : BitVec (1 + (a + b))) : signBit (w.getLsbD (a + b)) = w.extractLsb' (a + b) 1 := by
  apply BitVec.eq_of_getLsbD_eq
  intro i hi
  obtain rfl : i = 0 := by omega
  simp [signBit]

/-- A pattern is its three fields put together. -/
theorem fields_append (w : BitVec (1 + (a + b))) :
    signBit (w.getLsbD (a + b)) ++ (w.extractLsb' b a ++ w.extractLsb' 0 b) = w := by
  rw [signBit_getLsbD, BitVec.extractLsb'_append_extractLsb'_eq_extractLsb' (Nat.zero_add b).symm,
    BitVec.extractLsb'_append_extractLsb'_eq_extractLsb' (Nat.zero_add (a + b)).symm, BitVec.extractLsb'_eq_self]

theorem extractExponent_append (s : BitVec 1) (ex : BitVec a) (frac : BitVec b) :
    (s ++ (ex ++ frac)).extractLsb' b a = ex := by
  rw [BitVec.extractLsb'_append_eq_of_add_le (by omega), BitVec.extractLsb'_append_eq_left]

theorem extractFraction_append (s : BitVec 1) (ex : BitVec a) (frac : BitVec b) :
    (s ++ (ex ++ frac)).extractLsb' 0 b = frac := by
  rw [BitVec.extractLsb'_append_eq_of_add_le (by omega), BitVec.extractLsb'_append_eq_right]

/-- The exponent field and the fraction read as one number. -/
theorem ofNat_fields (ex : BitVec a) (frac : BitVec b) :
    BitVec.ofNat (a + b) (ex.toNat * 2 ^ b + frac.toNat) = ex ++ frac := by
  have happ : (ex ++ frac).toNat = ex.toNat * 2 ^ b + frac.toNat := by
    rw [BitVec.toNat_append, ← Nat.shiftLeft_add_eq_or_of_lt frac.isLt, Nat.shiftLeft_eq]
  rw [← happ, BitVec.ofNat_toNat, BitVec.setWidth_eq]

/-- The payload of a draw is a fraction that is not 0. -/
theorem ofNat_draw_ne_zero {N : Nat} (hN : N + 1 = 2 ^ b) (k : Fin N) : BitVec.ofNat b (k.val + 1) ≠ 0 := by
  intro hzero
  have := congrArg BitVec.toNat hzero
  rw [BitVec.toNat_ofNat, Nat.mod_eq_of_lt (by omega)] at this
  simp at this

/-- Every fraction that is not 0 is the payload of a draw. -/
theorem exists_draw_of_ne_zero {N : Nat} (hN : N + 1 = 2 ^ b) {frac : BitVec b} (h : frac ≠ 0) :
    ∃ k : Fin N, BitVec.ofNat b (k.val + 1) = frac := by
  have hpos : frac.toNat ≠ 0 := fun h0 => h (BitVec.eq_of_toNat_eq (by simpa using h0))
  have hlt := frac.isLt
  refine ⟨⟨frac.toNat - 1, by omega⟩, ?_⟩
  rw [show frac.toNat - 1 + 1 = frac.toNat by omega, BitVec.ofNat_toNat, BitVec.setWidth_eq]

/-- The patterns that some draw gives are those with an exponent field of all ones and a fraction that is not 0. -/
theorem exists_draw_iff {N : Nat} (hN : N + 1 = 2 ^ b) (ones : BitVec a) (w : BitVec (1 + (a + b))) :
    (∃ d : Bool × Fin N, signBit d.1 ++ (ones ++ BitVec.ofNat b (d.2.val + 1)) = w) ↔
      w.extractLsb' b a = ones ∧ w.extractLsb' 0 b ≠ 0 := by
  constructor
  · rintro ⟨⟨neg, k⟩, rfl⟩
    rw [extractExponent_append, extractFraction_append]
    exact ⟨rfl, ofNat_draw_ne_zero hN k⟩
  · rintro ⟨hex, hfrac⟩
    obtain ⟨k, hk⟩ := exists_draw_of_ne_zero hN hfrac
    exact ⟨(w.getLsbD (a + b), k), by rw [hk, ← hex, fields_append]⟩

end

/-! ## Magnitudes -/

/-- The magnitude, in units of the least subnormal, of exponent field `ex` and fraction `frac` with `p` significant
bits. -/
def fieldMag (p ex frac : Nat) : Nat := if ex = 0 then frac else (2 ^ (p - 1) + frac) * 2 ^ (ex - 1)

section
variable {p ex frac : Nat}

theorem magBits_of_lt {n : Nat} (hp : 0 < p) (h : n < 2 ^ p) : magBits p n = n := by
  have hlog : n.log2 + 1 - p = 0 := by
    by_cases hn : n = 0
    · subst hn
      rw [Nat.log2_zero]
      omega
    · have := (Nat.log2_lt hn).2 h
      omega
  simp [magBits, hlog]

theorem magBits_mul_two_pow {k e : Nat} (hp : 0 < p) (hlow : 2 ^ (p - 1) ≤ k) (hhigh : k < 2 ^ p) :
    magBits p (k * 2 ^ e) = e * 2 ^ (p - 1) + k := by
  have hk : k * 2 ^ e ≠ 0 := by
    have : 0 < k := lt_of_lt_of_le (by positivity) hlow
    positivity
  have hlog : (k * 2 ^ e).log2 = p - 1 + e := by
    rw [Nat.log2_eq_iff hk, show p - 1 + e + 1 = p + e by omega, Nat.pow_add, Nat.pow_add]
    exact ⟨Nat.mul_le_mul_right _ hlow, Nat.mul_lt_mul_of_pos_right hhigh (by positivity)⟩
  have hlast : (k * 2 ^ e).log2 + 1 - p = e := by omega
  simp only [magBits, hlast]
  rw [Nat.mul_div_cancel _ (by positivity)]

/-- Packing a magnitude gives its exponent field and fraction back. -/
theorem magBits_fieldMag (hp : 0 < p) (hfrac : frac < 2 ^ (p - 1)) :
    magBits p (fieldMag p ex frac) = ex * 2 ^ (p - 1) + frac := by
  have hpow := Nat.two_pow_pred_mul_two hp
  unfold fieldMag
  by_cases hex : ex = 0
  · rw [if_pos hex, magBits_of_lt hp (by omega), hex, Nat.zero_mul, Nat.zero_add]
  · rw [if_neg hex, magBits_mul_two_pow hp (by omega) (by omega), ← Nat.add_assoc, ← Nat.succ_mul,
      show (ex - 1).succ = ex by omega]

theorem fieldMag_representable (hp : 0 < p) (hfrac : frac < 2 ^ (p - 1)) :
    Claims.Representable p (fieldMag p ex frac) := by
  have hpow := Nat.two_pow_pred_mul_two hp
  unfold fieldMag
  by_cases hex : ex = 0
  · rw [if_pos hex]
    exact ⟨frac, 0, by omega, by simp⟩
  · rw [if_neg hex]
    exact ⟨2 ^ (p - 1) + frac, ex - 1, by omega, rfl⟩

theorem fieldMag_lt {n : Nat} (hp : 0 < p) (hfrac : frac < 2 ^ (p - 1)) (hex : p + (ex - 1) ≤ n) :
    fieldMag p ex frac < 2 ^ n := by
  have hpow := Nat.two_pow_pred_mul_two hp
  refine lt_of_lt_of_le ?_ (Nat.pow_le_pow_right (by decide) hex)
  rw [Nat.pow_add]
  unfold fieldMag
  split
  · exact lt_of_lt_of_le (by omega : frac < 2 ^ p) (Nat.le_mul_of_pos_right _ (by positivity))
  · exact Nat.mul_lt_mul_of_pos_right (by omega) (by positivity)

end

/-! ## Binary64 patterns -/

section
variable (w : Word)

theorem ofBits_finite (h : (w.extractLsb' 52 11).toNat ≠ 2047) :
    F64.ofBits w = .fin (w.getLsbD 63) (fieldMag 53 (w.extractLsb' 52 11).toNat (w.extractLsb' 0 52).toNat) := by
  unfold F64.ofBits fieldMag
  rw [if_neg h]
  split <;> rfl

theorem ofBits_special (h : (w.extractLsb' 52 11).toNat = 2047) :
    F64.ofBits w = if (w.extractLsb' 0 52).toNat = 0 then .inf (w.getLsbD 63) else .nan := by
  unfold F64.ofBits
  exact if_pos h

theorem ofBits_eq_nan_iff : F64.ofBits w = .nan ↔ w.extractLsb' 52 11 = 0x7FF ∧ w.extractLsb' 0 52 ≠ 0 := by
  have hones : w.extractLsb' 52 11 = 0x7FF ↔ (w.extractLsb' 52 11).toNat = 2047 := BitVec.toNat_inj.symm
  have hzero : w.extractLsb' 0 52 = 0 ↔ (w.extractLsb' 0 52).toNat = 0 := BitVec.toNat_inj.symm
  rw [hones, ne_eq, hzero]
  by_cases hex : (w.extractLsb' 52 11).toNat = 2047
  · simp [ofBits_special w hex, hex]
  · rw [ofBits_finite w hex]
    exact iff_of_false nofun fun ⟨hex', _⟩ => hex hex'

/-- Sign, exponent field and fraction of a word put together. -/
theorem word_fields :
    signBit (w.getLsbD 63) ++ BitVec.ofNat 63 ((w.extractLsb' 52 11).toNat * 2 ^ 52 + (w.extractLsb' 0 52).toNat) =
      w := by
  rw [show BitVec.ofNat 63 _ = w.extractLsb' 52 11 ++ w.extractLsb' 0 52 from ofNat_fields ..]
  exact fields_append (a := 11) (b := 52) w

theorem bits_ofBits (ifNan : Word) (h : F64.ofBits w ≠ .nan) : (F64.ofBits w).bits ifNan = w := by
  by_cases hex : (w.extractLsb' 52 11).toNat = 2047
  · rw [ofBits_special w hex] at h ⊢
    by_cases hfrac : (w.extractLsb' 0 52).toNat = 0
    · rw [if_pos hfrac]
      have hpacked := word_fields w
      rw [hex, hfrac] at hpacked
      exact hpacked
    · exact absurd (if_neg hfrac) h
  · rw [ofBits_finite w hex, F64.bits, magBits_fieldMag (by decide) (w.extractLsb' 0 52).isLt]
    exact word_fields w

end

/-! ## Binary32 patterns -/

section
variable (w : Elem)

theorem widen_finite (h : (w.extractLsb' 23 8).toNat ≠ 255) :
    F64.widen w =
      .fin (w.getLsbD 31) (fieldMag 24 (w.extractLsb' 23 8).toNat (w.extractLsb' 0 23).toNat * unit32) := by
  unfold F64.widen fieldMag
  rw [if_neg h]
  split <;> rfl

theorem widen_special (h : (w.extractLsb' 23 8).toNat = 255) :
    F64.widen w = if (w.extractLsb' 0 23).toNat = 0 then .inf (w.getLsbD 31) else .nan := by
  unfold F64.widen
  exact if_pos h

theorem widen_eq_nan_iff : F64.widen w = .nan ↔ w.extractLsb' 23 8 = 0xFF ∧ w.extractLsb' 0 23 ≠ 0 := by
  have hones : w.extractLsb' 23 8 = 0xFF ↔ (w.extractLsb' 23 8).toNat = 255 := BitVec.toNat_inj.symm
  have hzero : w.extractLsb' 0 23 = 0 ↔ (w.extractLsb' 0 23).toNat = 0 := BitVec.toNat_inj.symm
  rw [hones, ne_eq, hzero]
  by_cases hex : (w.extractLsb' 23 8).toNat = 255
  · simp [widen_special w hex, hex]
  · rw [widen_finite w hex]
    exact iff_of_false nofun fun ⟨hex', _⟩ => hex hex'

/-- Sign, exponent field and fraction of an element put together. -/
theorem elem_fields :
    signBit (w.getLsbD 31) ++ BitVec.ofNat 31 ((w.extractLsb' 23 8).toNat * 2 ^ 23 + (w.extractLsb' 0 23).toNat) =
      w := by
  rw [show BitVec.ofNat 31 _ = w.extractLsb' 23 8 ++ w.extractLsb' 0 23 from ofNat_fields ..]
  exact fields_append (a := 8) (b := 23) w

/-- Narrowing a whole number of binary32 units with at most 24 significant bits, below 2^128, packs it unrounded. -/
theorem narrow_exact (ifNan : Elem) (neg : Bool) {m : Nat} (hm : Claims.Representable 24 m) (hlt : m < beyond32) :
    (F64.fin neg (m * unit32)).narrow ifNan = signBit neg ++ BitVec.ofNat 31 (magBits 24 m) := by
  have hround : roundPlaces 24 (m * unit32) unit32 = m :=
    roundPlaces_exact (by decide) (by unfold unit32; positivity) hm
  simp only [F64.narrow, hround, if_neg (Nat.not_le.2 hlt)]

theorem narrow_widen (ifNan : Elem) (h : F64.widen w ≠ .nan) : (F64.widen w).narrow ifNan = w := by
  have hfracLt : (w.extractLsb' 0 23).toNat < 2 ^ 23 := (w.extractLsb' 0 23).isLt
  by_cases hex : (w.extractLsb' 23 8).toNat = 255
  · rw [widen_special w hex] at h ⊢
    by_cases hfrac : (w.extractLsb' 0 23).toNat = 0
    · rw [if_pos hfrac]
      have hpacked := elem_fields w
      rw [hex, hfrac] at hpacked
      exact hpacked
    · exact absurd (if_neg hfrac) h
  · have htop : (w.extractLsb' 23 8).toNat < 2 ^ 8 := (w.extractLsb' 23 8).isLt
    rw [widen_finite w hex, narrow_exact ifNan _ (fieldMag_representable (by decide) hfracLt)
      (fieldMag_lt (by decide) hfracLt (by omega)), magBits_fieldMag (by decide) hfracLt]
    exact elem_fields w

end

/-- Settles O50: the two fields of a word are what packing its magnitude gives. -/
theorem patternsAndValuesAgree : Obligations.PatternsAndValuesAgree :=
  ⟨fun w v h => bits_ofBits w v h, ofBits_eq_nan_iff⟩

/-- Settles O51: a widened magnitude has at most 24 significant bits, so narrowing does not round it. -/
theorem narrowUndoesWiden : Obligations.NarrowUndoesWiden := by
  refine ⟨fun e => ⟨fun hex => ?_, fun ⟨hpos, hlt⟩ => ?_, fun ⟨hex, hfrac⟩ => ?_, fun ⟨hex, hfrac⟩ => ?_⟩,
    fun e v h => narrow_widen e v h⟩
  · rw [widen_finite e (by omega), fieldMag, if_pos hex, unit32]
  · rw [widen_finite e (by omega), fieldMag, if_neg (by omega), unit32]
  · rw [widen_special e hex, if_pos hfrac]
  · rw [widen_special e hex, if_neg hfrac]

/-- Settles O52: NaNs and draws are both the patterns with an exponent of all ones and a fraction that is not 0. -/
theorem drawsAreExactlyTheNans : Obligations.DrawsAreExactlyTheNans :=
  ⟨fun w => (ofBits_eq_nan_iff w).trans (exists_draw_iff (a := 11) (b := 52) (by decide) 0x7FF w).symm,
    fun e => (widen_eq_nan_iff e).trans (exists_draw_iff (a := 8) (b := 23) (by decide) 0xFF e).symm⟩

end Sys2Proof
end

section
/-! The step that takes a whole packet from IDLE (30_encoding R111, R118). -/
namespace Sys2Proof

/-- A list of words that decodes is a header and exactly the operand words its OP asks for. -/
theorem decode_ok {ws : List Word} {i : Instr} (h : decode ws = .ok i) :
    ∃ hdr ops, ws = hdr :: ops ∧ decodePacket hdr ops = .ok i ∧ ops.length = operandCount (hdrOp hdr) := by
  cases ws with
  | nil => cases h
  | cons hdr ops =>
    obtain ⟨n, hop, -, -, hbuild⟩ := decodePacket_ok h
    obtain ⟨hlen, -⟩ := buildInstr_ok hbuild
    exact ⟨hdr, ops, rfl, h, by rw [hlen, ← code_of_opOfCode hop, operandCount_code]⟩

namespace Machine

/-- A header with no operand words is executed as soon as it is taken. -/
theorem runHost_command {hdr : Word} (rest : List HostAct) {s : State} (hready : s.ready = true)
    (hidle : s.dstate = .idle) (hn : operandCount (hdrOp hdr) = 0) :
    runHost (.word hdr :: rest) s = execute hdr [] { s with cpos := s.cpos + 1, host := rest } := by
  have hacc := accept_idle_command (s := { s with host := rest }) hidle hn
  rw [runHost_word _ _ hready, hacc]

/-- A header with operand words is taken, and the step goes on with them. -/
theorem runHost_header {hdr : Word} (rest : List HostAct) {s : State} (hready : s.ready = true)
    (hidle : s.dstate = .idle) (hn : operandCount (hdrOp hdr) ≠ 0) :
    runHost (.word hdr :: rest) s =
      runHost rest { s with cpos := s.cpos + 1, dstate := .collecting hdr [], host := rest } := by
  have hacc := accept_idle_collect (s := { s with host := rest }) hidle hn
  rw [runHost_word _ _ hready, hacc]

/-- A header taken at IDLE and all its operand words are taken together, and the packet is executed. -/
theorem runHost_packet {hdr : Word} {ops : List Word} (rest : List HostAct) {s : State} (hready : s.ready = true)
    (hidle : s.dstate = .idle) (hlen : ops.length = operandCount (hdrOp hdr)) :
    runHost ((hdr :: ops).map .word ++ rest) s =
      execute hdr ops { s with cpos := s.cpos + (hdr :: ops).length, host := rest } := by
  rw [List.map_cons, List.cons_append]
  cases ops with
  | nil => exact runHost_command rest hready hidle hlen.symm
  | cons op ops =>
    rw [runHost_header _ hready hidle (by rw [← hlen]; simp), runHost_complete hdr (op :: ops) [] rest]
    · simp [hidle, Nat.add_assoc, Nat.add_comm, Nat.add_left_comm]
    · exact hready
    · rfl
    · simp
    · simpa using hlen

/-- Executing a packet that decodes: its instruction gives a next state, and the waiting host accesses are settled with
the rectangle it worked on. -/
theorem execute_settles {hdr : Word} {ops : List Word} {i : Instr} (h : decodePacket hdr ops = .ok i) (s : State) :
    ∃ t, exec i s = .next t ∧ execute hdr ops s = .next (t.settle (touchedRect i s)) := by
  rcases execute_cases hdr ops s with ⟨e, herr, -⟩ | ⟨j, t, hj, hexec, hrun⟩
  · rw [h] at herr
    cases herr
  · rw [h] at hj
    cases hj
    exact ⟨t, hexec, hrun⟩

/-- Settles O9: the packet is taken whole and executed as the instruction it decodes to. -/
theorem stepRunsDecodedInstruction : Obligations.StepRunsDecodedInstruction := by
  intro s ws rest i hidle hready hhost hdecode
  obtain ⟨hdr, ops, rfl, hpacket, hlen⟩ := decode_ok hdecode
  have hstep := runHost_packet rest hready hidle hlen
  rw [← hhost] at hstep
  unfold step
  rw [hstep]
  exact ⟨fun hlate => execute_ok hpacket hlate, execute_settles hpacket _⟩

end Machine
end Sys2Proof
end

section
/-! What SETGA and SETRANGE accept is legal in the registers they write (10_state R39, R41; 43_config R233, R234). -/
namespace Sys2Proof

/-- `<` orders the integers extended with the infinities. -/
theorem EInt.lt_trichotomy (a b : EInt) : a.lt b = true ∨ a = b ∨ b.lt a = true := by
  cases a <;> cases b <;> simp only [EInt.lt, EInt.fin.injEq, decide_eq_true_eq, reduceCtorEq, true_or, or_true]
  omega

theorem F64.exists_place {x : F64} (h : x.isNan = false) : ∃ a, x.place = some a := by
  cases x with
  | nan => cases h
  | inf neg => exact ⟨_, rfl⟩
  | fin neg n => exact ⟨_, rfl⟩

/-- Of two values that are no NaN, one that is not less is at least the other (00_scope R17). -/
theorem F64.le_of_not_lt {x y : F64} (hx : x.isNan = false) (hy : y.isNan = false) (h : y.lt x = false) :
    x.le y = true := by
  obtain ⟨a, ha⟩ := exists_place hx
  obtain ⟨b, hb⟩ := exists_place hy
  simp only [F64.lt, ha, hb] at h
  simp only [F64.le, F64.lt, F64.eq, ha, hb, Bool.or_eq_true, decide_eq_true_eq]
  rcases EInt.lt_trichotomy a b with hlt | heq | hgt
  · exact .inl hlt
  · exact .inr heq
  · rw [h] at hgt
    cases hgt

@[simp] theorem Quad.get_set_same {α : Type} (q : Quad α) (c : Chan) (v : α) : (q.set c v).get c = v := by
  cases c <;> rfl

theorem Quad.get_set_other {α : Type} (q : Quad α) {c d : Chan} (h : d ≠ c) (v : α) :
    (q.set c v).get d = q.get d := by
  revert h
  cases c <;> cases d <;> simp [Quad.set, Quad.get]

namespace Machine

/-- What SETGA does not refuse is a legal content of GALPHA. -/
theorem galphaLegal_of_not_bad {ga : Word} (h : badGalpha ga = false) : galphaLegal ga = true := by
  simp only [badGalpha, Bool.or_eq_false_iff] at h
  obtain ⟨⟨hnan, hlow⟩, hhigh⟩ := h
  rw [galphaLegal, Bool.and_eq_true]
  exact ⟨F64.le_of_not_lt rfl hnan hlow, F64.le_of_not_lt hnan rfl hhigh⟩

/-- SETRANGE with different ends keeps the ends of every channel different. -/
theorem setRange_rangesLegal {s : State} (hs : rangesLegal s) (c : Chan) {low high : Word}
    (h : badRange low high = false) : rangesLegal (s.setRange c low high) := by
  intro d hd
  simp only [State.setRange_rlo, State.setRange_rhi]
  by_cases hdc : d = c
  · simpa [hdc] using h
  · simpa [Quad.get_set_other _ hdc] using hs d hd

end Machine
end Sys2Proof
end

section
/-! What a command can do to the state, said once for all commands (00_scope R6, 10_state R44). -/
namespace Sys2Proof.Machine

/-- What a command of opcode `n` can do: nothing, fault entry from the running state, the one register write of its SET
command, the rewriting of pixels with one Present event, or a response. -/
inductive CommandEffect (n : OpName) (s : State) : State → Prop
  | nothing : CommandEffect n s s
  | fault (f : FaultInfo) (op : BitVec 8) (running : s.status.halted = false) : CommandEffect n s (s.raise f op)
  | setMode (m : BlendMode) (name : n = .setmode) : CommandEffect n s (s.setMode m)
  | setGalpha (ga : Word) (name : n = .setga) (accepted : badGalpha ga = false) : CommandEffect n s (s.setGalpha ga)
  | setRange (c : Chan) (low high : Word) (name : n = .setrange) (accepted : badRange low high = false) :
      CommandEffect n s (s.setRange c low high)
  | setFill (q : Quad Word) (name : n = .setfill) : CommandEffect n s (s.setFill q)
  | paint (hdr : List (Nat × Elem)) (surf : List Host.Cell) (r : Rect) (draws : Nat)
      (hdrForm : Memory.wf (memSize s.params) s.hdr → Memory.wf (memSize s.params) hdr)
      (surfForm : Memory.wf (memSize s.params) s.surf → Memory.wf (memSize s.params) surf) :
      CommandEffect n s { s with hdr := hdr, surf := surf, presents := s.presents ++ [r], draws := draws }
  | respond (ws : List Word) (draws : Nat) :
      CommandEffect n s { s with responses := s.responses ++ ws, draws := draws }

/-- Every pixel of the rectangle lies in the buffer. -/
def Rect.inBuffer (r : Rect) (p : Params) : Prop := ∀ q ∈ r.pixels, q.1 < p.width ∧ q.2 < p.height

theorem clip_inBuffer {p : Params} {x y w h : Word} {r : Rect} (hc : clip p x y w h = .rect r) : r.inBuffer p :=
  fun _ hq => clip_pixels_lt hc hq

theorem pixelRect_inBuffer {p : Params} {x y : Nat} (hx : x < p.width) (hy : y < p.height) :
    (pixelRect x y).inBuffer p := by
  intro q hq
  obtain ⟨hx0, hx1, hy0, hy1⟩ := (covers_iff _ _ _).1 (mem_pixels.1 hq)
  simp only [pixelRect] at hx1 hy1
  omega

theorem fullRect_inBuffer {p : Params} {r : Rect} (h : fullRect p = some r) : r.inBuffer p := by
  intro q hq
  obtain ⟨hx0, hx1, hy0, hy1⟩ := (covers_iff _ _ _).1 (mem_pixels.1 hq)
  unfold fullRect at h
  split at h
  · cases h
    exact ⟨hx1, hy1⟩
  · cases h

/-- The tone-map of a rectangle in the buffer changes SURF, keeping its form, and presents the rectangle
(42_tonemap R215). -/
theorem toneRect_surf_presents {s : State} {r : Rect} (hr : r.inBuffer s.params) :
    ∃ surf, s.toneRect r = { s with surf := surf, presents := s.presents ++ [r] } ∧
      (Memory.wf (memSize s.params) s.surf → Memory.wf (memSize s.params) surf) := by
  obtain ⟨surf, htone⟩ := toneAll_surf_only s r.pixels
  refine ⟨surf, by rw [State.toneRect, htone]; rfl, fun hwf => ?_⟩
  have hkept := toneAll_wf hwf hr
  rwa [htone] at hkept

section
variable {n : OpName} {s : State}

/-- A command that rewrites the HDR memory in its form and tone-maps a rectangle of the buffer (41_compositor R186). -/
theorem toneRect_effect {t : State} {r : Rect} (ht : ∃ hdr, t = { s with hdr := hdr })
    (hwf : Memory.wf (memSize s.params) s.hdr → Memory.wf (memSize s.params) t.hdr) (hr : r.inBuffer s.params) :
    CommandEffect n s (t.toneRect r) ∧ CommandEffect n s (t.toneRect r).tick := by
  obtain ⟨hdr, rfl⟩ := ht
  obtain ⟨surf, htone, hsurf⟩ := toneRect_surf_presents (s := { s with hdr := hdr }) hr
  rw [htone]
  exact ⟨.paint hdr surf r s.draws hwf hsurf, .paint hdr surf r (s.draws + 1) hwf hsurf⟩

theorem blendPixel_effect (src : Quad F64) {x y : Nat} (hx : x < s.params.width) (hy : y < s.params.height) :
    CommandEffect n s (s.blendPixel src x y) :=
  (toneRect_effect (merge_hdr_only s _ src) (fun hwf => merge_wf hwf (pixelNumber_lt hx hy) src)
    (pixelRect_inBuffer hx hy)).2

theorem blendRect_effect (src : Nat × Nat → Quad F64) {r : Rect} (hr : r.inBuffer s.params) :
    CommandEffect n s (s.blendRect src r) :=
  (toneRect_effect (mergeAll_hdr_only s src _) (fun hwf => mergeAll_wf hwf src hr) hr).2

theorem clearRect_effect {r : Rect} (hr : r.inBuffer s.params) :
    CommandEffect n s ((s.clearAll r.pixels).toneRect r) :=
  (toneRect_effect (clearAll_hdr_only s _) (fun hwf => clearAll_wf hwf hr) hr).1

theorem toneOnly_effect {r : Rect} (hr : r.inBuffer s.params) : CommandEffect n s (s.toneRect r) :=
  (toneRect_effect ⟨s.hdr, rfl⟩ id hr).1

theorem unlessHalted_effect {f : State → State} (h : s.status.halted = false → CommandEffect n s (f s)) :
    CommandEffect n s (s.unlessHalted f) := by
  cases hh : s.status.halted with
  | true => rw [unlessHalted_halted hh]; exact .nothing
  | false => rw [unlessHalted_running hh]; exact h hh

theorem withPixel_effect {op : BitVec 8} {x y : Word} {f : Nat → Nat → State → State}
    (hrun : s.status.halted = false)
    (h : ∀ a b, a < s.params.width → b < s.params.height → CommandEffect n s (f a b s)) :
    CommandEffect n s (s.withPixel op x y f) := by
  rcases withPixel_cases s op x y f with hbad | ⟨a, b, hpix, hgood⟩
  · rw [hbad]
    exact .fault _ _ hrun
  · rw [hgood]
    obtain ⟨ha, hb⟩ := pixcoord_bounds hpix
    exact h a b ha hb

theorem withClip_effect {op : BitVec 8} {x y w h : Word} {e : State → State} {f : Rect → State → State}
    (hrun : s.status.halted = false) (hempty : CommandEffect n s (e s))
    (hrect : ∀ r, r.inBuffer s.params → CommandEffect n s (f r s)) :
    CommandEffect n s (s.withClip op x y w h e f) := by
  rcases withClip_cases s op x y w h e f with hbad | hnone | ⟨r, hclip, hsome⟩
  · rw [hbad]
    exact .fault _ _ hrun
  · rw [hnone]
    exact hempty
  · rw [hsome]
    exact hrect r (clip_inBuffer hclip)

theorem selectMode_effect (msel : BitVec 5) (hn : n = .setmode) (hrun : s.status.halted = false) :
    CommandEffect n s (s.selectMode msel) := by
  unfold State.selectMode
  split
  · exact .setMode _ hn
  · exact .fault _ _ hrun

theorem chooseMode_effect (m : BlendMode) (hn : n = .setmode) : CommandEffect n s (s.chooseMode m) :=
  unlessHalted_effect fun _ => .setMode m hn

/-- An illegal packet does no more than any command may (60_exceptions R266). -/
theorem illegal_effect (hdr : Word) : CommandEffect n s (s.illegal hdr) :=
  unlessHalted_effect fun hrun => .fault _ _ hrun

end

/-- Every command goes on to a next state, by one of the effects of its opcode. -/
theorem exec_next_effect (i : Instr) (s : State) : ∃ t, exec i s = .next t ∧ CommandEffect i.opName s t := by
  cases i with
  | nop => exact ⟨_, rfl, .nothing⟩
  | setmode msel => exact ⟨_, rfl, unlessHalted_effect (selectMode_effect msel rfl)⟩
  | setga ga =>
    refine ⟨_, rfl, unlessHalted_effect fun hrun => ?_⟩
    split
    · exact .fault _ _ hrun
    · next hok => exact .setGalpha ga rfl (by simpa using hok)
  | setrange c low high =>
    refine ⟨_, rfl, unlessHalted_effect fun hrun => ?_⟩
    split
    · exact .fault _ _ hrun
    · next hok => exact .setRange c low high rfl (by simpa using hok)
  | setfill r g b a => exact ⟨_, rfl, unlessHalted_effect fun _ => .setFill _ rfl⟩
  | setfillDa r g b a => exact ⟨_, rfl, unlessHalted_effect fun _ => .setFill _ rfl⟩
  | blendpx x y r g b a =>
    exact ⟨_, rfl, unlessHalted_effect fun hrun => withPixel_effect hrun fun _ _ => blendPixel_effect _⟩
  | blendpxDa x y r g b a =>
    exact ⟨_, rfl, unlessHalted_effect fun hrun => withPixel_effect hrun fun _ _ => blendPixel_effect _⟩
  | fillrect x y w h =>
    exact ⟨_, rfl, unlessHalted_effect fun hrun => withClip_effect hrun .nothing fun _ => blendRect_effect _⟩
  | clearrect x y w h =>
    exact ⟨_, rfl, unlessHalted_effect fun hrun => withClip_effect hrun .nothing fun _ => clearRect_effect⟩
  | drawimg x y w h =>
    exact ⟨_, rfl, unlessHalted_effect fun hrun => withClip_effect hrun .nothing fun _ => blendRect_effect _⟩
  | tonemap x y w h =>
    exact ⟨_, rfl, unlessHalted_effect fun hrun => withClip_effect hrun .nothing fun _ => toneOnly_effect⟩
  | tonemapall =>
    refine ⟨_, rfl, unlessHalted_effect fun _ => ?_⟩
    split
    · next hfull => exact toneOnly_effect (fullRect_inBuffer hfull)
    · exact .nothing
  | readpx x y =>
    exact ⟨_, rfl, unlessHalted_effect fun hrun => withPixel_effect hrun fun _ _ _ _ => .respond _ (s.draws + 1)⟩
  | mappx x y =>
    exact ⟨_, rfl, unlessHalted_effect fun hrun => withPixel_effect hrun fun _ _ _ _ => .respond _ (s.draws + 1)⟩
  | extract x y w h =>
    exact ⟨_, rfl, unlessHalted_effect fun hrun =>
      withClip_effect hrun (.respond _ s.draws) fun _ _ => .respond _ (s.draws + 1)⟩
  | rdreg reg => exact ⟨_, rfl, .respond _ s.draws⟩
  | _ => exact ⟨_, rfl, chooseMode_effect _ rfl⟩

theorem exec_effect {i : Instr} {s t : State} (h : exec i s = .next t) : CommandEffect i.opName s t := by
  obtain ⟨u, hu, heffect⟩ := exec_next_effect i s
  rw [hu] at h
  cases h
  exact heffect

end Sys2Proof.Machine
end

section
/-! What the host's SURF port can do, and what a whole step is made of (log 6). -/
namespace Sys2Proof.Machine

/-- SURF in its form and every waiting host access at an index that exists. -/
def portLegal (p : Params) (surf : List Host.Cell) (late : List LateAccess) : Prop :=
  Memory.wf (memSize p) surf ∧ ∀ a ∈ late, a.idx < memSize p

/-- What a host access to SURF and the settling of the waiting ones can do: they change SURF, the bytes returned, the
accesses that wait and the number of the free values, and keep what is legal of them (20_memory R77, R88). -/
inductive PortEffect (s : State) : State → Prop
  | mk (surf : List Host.Cell) (reads : List Byte) (late : List LateAccess) (draws : Nat)
      (legal : portLegal s.params s.surf s.late → portLegal s.params surf late) :
      PortEffect s { s with surf := surf, hostReads := reads, late := late, draws := draws }

theorem settleWith_effect (s : State) (c : Nat → Bool) : PortEffect s (s.settleWith c) :=
  .mk _ _ [] s.draws fun ⟨hsurf, hlate⟩ => ⟨settleWith_surf_wf hsurf hlate c, by simp⟩

section
variable {s : State} {j : Nat} (hj : j < memSize s.params)
include hj

theorem portLegal_write (b : Byte) {late : List LateAccess} (h : portLegal s.params s.surf late) :
    portLegal s.params (s.surfWrite j b).surf late :=
  ⟨cellWrite_wf h.1 hj b, h.2⟩

theorem portLegal_queue {a : LateAccess} (ha : a.idx = j) {surf : List Host.Cell} {late : List LateAccess}
    (h : portLegal s.params surf late) : portLegal s.params surf (late ++ [a]) := by
  refine ⟨h.1, fun x hx => ?_⟩
  rcases List.mem_append.1 hx with hold | hnew
  · exact h.2 x hold
  · rwa [List.mem_singleton.1 hnew, ha]

theorem lateWrite_effect (b : Byte) : PortEffect s (s.lateWrite j b) := by
  unfold State.lateWrite
  cases Config.raceSeen s.draws with
  | true => exact .mk _ _ _ (s.draws + 1) fun h => portLegal_queue hj rfl (portLegal_write hj b h)
  | false => exact .mk _ _ _ (s.draws + 1) fun h => portLegal_queue hj rfl h

theorem lateRead_effect : PortEffect s (s.lateRead j) :=
  .mk s.surf s.hostReads _ (s.draws + 1) fun h => portLegal_queue hj rfl h

theorem hostSurfWrite_effect (b : Byte) : PortEffect s (s.hostSurfWrite j b) := by
  unfold State.hostSurfWrite
  split
  · exact lateWrite_effect hj b
  · exact .mk _ s.hostReads s.late s.draws fun h => portLegal_write hj b h

theorem hostSurfRead_effect : PortEffect s (s.hostSurfRead j) := by
  unfold State.hostSurfRead
  split
  · exact lateRead_effect hj
  · exact .mk s.surf _ s.late s.draws id

end

/-- An access of the port that goes on reaches a byte that exists. -/
theorem atSurf_effect {s t : State} {j : Nat} {f : State → State} (h : s.atSurf j f = .next t)
    (hf : j < memSize s.params → PortEffect s (f s)) : PortEffect s t := by
  unfold State.atSurf at h
  split at h
  · next hj => cases h; exact hf hj
  · cases h

/-- Executing a packet is the effect of a command, then the settling of the waiting accesses. -/
theorem execute_effect {hdr : Word} {ops : List Word} {s t : State} (h : execute hdr ops s = .next t) :
    ∃ n u, CommandEffect n s u ∧ PortEffect u t := by
  rcases execute_cases hdr ops s with ⟨e, -, hrun⟩ | ⟨i, u, -, hexec, hrun⟩
  · rw [hrun] at h
    cases h
    exact ⟨.nop, _, illegal_effect hdr, settleWith_effect _ _⟩
  · rw [hrun] at h
    cases h
    exact ⟨i.opName, u, exec_effect hexec, settleWith_effect _ _⟩

/-- The state with one word taken from the stream, the host to go on with `rest`. -/
def State.taken (s : State) (rest : List HostAct) (d : DState) : State :=
  { s with host := rest, cpos := s.cpos + 1, dstate := d }

/-- Taking a word moves CPOS on and keeps DSTATE legal, whether it completes a packet or not (30_encoding R118). -/
theorem accept_taken (s : State) (w : Word) :
    ∃ d, (dstateLegal s.dstate = true → dstateLegal d = true) ∧ (s.accept w).1 = s.taken s.host d := by
  cases hd : s.dstate with
  | idle =>
    by_cases hn : operandCount (hdrOp w) = 0
    · exact ⟨.idle, id, by rw [accept_idle_command hd hn, State.taken, ← hd]⟩
    · refine ⟨.collecting w [], fun _ => ?_, by rw [accept_idle_collect hd hn, State.taken]⟩
      exact decide_eq_true (Nat.pos_of_ne_zero hn)
  | collecting hdr ops =>
    by_cases hn : ops.length + 1 = operandCount (hdrOp hdr)
    · exact ⟨.idle, fun _ => rfl, by rw [accept_last hd hn, State.taken]⟩
    · refine ⟨.collecting hdr (ops ++ [w]), fun hlegal => ?_, by rw [accept_more hd hn, State.taken]⟩
      simp only [dstateLegal, decide_eq_true_eq, List.length_append, List.length_singleton] at hlegal ⊢
      omega

/-! ## What the host does besides sending words, one equation for each action -/

section
variable (s : State) (rest : List HostAct) (j : Nat) (b : Byte)

theorem runHost_surfWrite : runHost (.surfWrite j b :: rest) s =
    ({ s with host := rest } : State).atSurf j fun t => t.hostSurfWrite j b := rfl

theorem runHost_surfRead : runHost (.surfRead j :: rest) s =
    ({ s with host := rest } : State).atSurf j fun t => t.hostSurfRead j := rfl

theorem runHost_raceWrite : runHost (.raceWrite j b :: rest) s =
    ({ s with host := rest } : State).atSurf j fun t => t.lateWrite j b := rfl

theorem runHost_raceRead : runHost (.raceRead j :: rest) s =
    ({ s with host := rest } : State).atSurf j fun t => t.lateRead j := rfl

theorem runHost_takeResponse : runHost (.takeResponse :: rest) s =
    .next ({ s with host := rest } : State).takeResponse := rfl

theorem runHost_takePresent : runHost (.takePresent :: rest) s =
    .next ({ s with host := rest } : State).takePresent := rfl

theorem runHost_reset : runHost (.reset :: rest) s = .next ({ s with host := rest } : State).applyReset := rfl

end

/-- What one step can be made of: words that leave their packet incomplete, then the one thing that ends the step. -/
inductive StepParts : State → State → Prop
  | held (s : State) : StepParts s s
  | collect {s t : State} {w : Word} {rest : List HostAct} (d : DState) (next : s.host = .word w :: rest)
      (legal : dstateLegal s.dstate = true → dstateLegal d = true) (after : StepParts (s.taken rest d) t) :
      StepParts s t
  | command {s u t : State} {w : Word} {rest : List HostAct} (d : DState) (n : OpName)
      (next : s.host = .word w :: rest) (legal : dstateLegal s.dstate = true → dstateLegal d = true)
      (effect : CommandEffect n (s.taken rest d) u) (settled : PortEffect u t) : StepParts s t
  | port {s t : State} {a : HostAct} {rest : List HostAct} (next : s.host = a :: rest) (noWord : ∀ w, a ≠ .word w)
      (effect : PortEffect { s with host := rest } t) : StepParts s t
  | takeResponse {s : State} {rest : List HostAct} (next : s.host = .takeResponse :: rest) :
      StepParts s ({ s with host := rest } : State).takeResponse
  | takePresent {s : State} {rest : List HostAct} (next : s.host = .takePresent :: rest) :
      StepParts s ({ s with host := rest } : State).takePresent
  | reset {s : State} {rest : List HostAct} (next : s.host = .reset :: rest) :
      StepParts s ({ s with host := rest } : State).applyReset

theorem runHost_parts {acts : List HostAct} {s t : State} (hacts : s.host = acts) (h : runHost acts s = .next t) :
    StepParts s t := by
  induction acts generalizing s with
  | nil =>
    cases h
    rw [← hacts]
    exact .held s
  | cons act rest ih =>
    cases act with
    | word w =>
      cases hready : s.ready with
      | false =>
        rw [runHost_wait w rest hready, ← hacts] at h
        cases h
        exact .held s
      | true =>
        rw [runHost_word w rest hready] at h
        obtain ⟨d, hlegal, htaken⟩ := accept_taken { s with host := rest } w
        rcases haccept : ({ s with host := rest } : State).accept w with ⟨u, _ | ⟨hdr, ops⟩⟩ <;>
          rw [haccept] at h htaken <;> cases htaken
        · exact .collect d hacts hlegal (ih rfl h)
        · obtain ⟨n, u, heffect, hsettled⟩ := execute_effect h
          exact .command d n hacts hlegal heffect hsettled
    | surfWrite j b =>
      rw [runHost_surfWrite] at h
      exact .port hacts (by simp) (atSurf_effect h fun hj => hostSurfWrite_effect hj b)
    | surfRead j =>
      rw [runHost_surfRead] at h
      exact .port hacts (by simp) (atSurf_effect h hostSurfRead_effect)
    | raceWrite j b =>
      rw [runHost_raceWrite] at h
      exact .port hacts (by simp) (atSurf_effect h fun hj => lateWrite_effect hj b)
    | raceRead j =>
      rw [runHost_raceRead] at h
      exact .port hacts (by simp) (atSurf_effect h lateRead_effect)
    | takeResponse =>
      rw [runHost_takeResponse] at h
      cases h
      exact .takeResponse hacts
    | takePresent =>
      rw [runHost_takePresent] at h
      cases h
      exact .takePresent hacts
    | reset =>
      rw [runHost_reset] at h
      cases h
      exact .reset hacts

/-- Every step that gives a next state is made of these parts. -/
theorem step_parts {s t : State} (h : step s = .next t) : StepParts s t := runHost_parts rfl h

end Sys2Proof.Machine
end

section
/-! The invariant, kept by every part of a step (10_state R35 to R41, R48; 20_memory R70, R75). -/
namespace Sys2Proof.Machine

theorem faultInfo_code_legal (f : FaultInfo) : f.code.toNat ≤ 5 ∧ f.code ≠ 0 := by
  cases f <;> simp [FaultInfo.code]

/-- Fault entry leaves a legal STATUS (60_exceptions R268). -/
theorem raise_statusLegal (s : State) (f : FaultInfo) (op : BitVec 8) : statusLegal (s.raise f op) := by
  obtain ⟨hle, hne⟩ := faultInfo_code_legal f
  exact ⟨hle, iff_of_true rfl hne, by simp, iff_of_true rfl (by simp)⟩

/-- A command writes legal contents only: what SETGA and SETRANGE accept, the STATUS of fault entry, and memories in
their form. -/
theorem CommandEffect.keeps_inv {n : OpName} {s t : State} (h : CommandEffect n s t) (hs : s.Inv) : t.Inv := by
  obtain ⟨hparams, hgalpha, hranges, hstatus, hdstate, hhdr, hsurf, hlate⟩ := hs
  cases h with
  | nothing | setMode | setFill | respond =>
    exact ⟨hparams, hgalpha, hranges, hstatus, hdstate, hhdr, hsurf, hlate⟩
  | fault f op => exact ⟨hparams, hgalpha, hranges, raise_statusLegal s f op, hdstate, hhdr, hsurf, hlate⟩
  | setGalpha ga _ hok => exact ⟨hparams, galphaLegal_of_not_bad hok, hranges, hstatus, hdstate, hhdr, hsurf, hlate⟩
  | setRange c low high _ hok =>
    exact ⟨hparams, hgalpha, setRange_rangesLegal hranges c hok, hstatus, hdstate, hhdr, hsurf, hlate⟩
  | paint hdr surf r draws hdrForm surfForm =>
    exact ⟨hparams, hgalpha, hranges, hstatus, hdstate, hdrForm hhdr, surfForm hsurf, hlate⟩

/-- The port writes SURF, whose form it keeps, and nothing else the invariant speaks of but the waiting accesses. -/
theorem PortEffect.keeps_inv {s t : State} (h : PortEffect s t) (hs : s.Inv) : t.Inv := by
  obtain ⟨hparams, hgalpha, hranges, hstatus, hdstate, hhdr, hport⟩ := hs
  obtain ⟨surf, reads, late, draws, hlegal⟩ := h
  exact ⟨hparams, hgalpha, hranges, hstatus, hdstate, hhdr, hlegal hport⟩

theorem taken_inv {s : State} (hs : s.Inv) (rest : List HostAct) {d : DState}
    (hd : dstateLegal s.dstate = true → dstateLegal d = true) : (s.taken rest d).Inv :=
  ⟨hs.params, hs.galpha, hs.ranges, hs.status, hd hs.dstate, hs.memories⟩

/-- The invariant does not speak of what the host does next, nor of what the streams hold. -/
theorem inv_of_streams {s : State} (hs : s.Inv) (rest : List HostAct) (ws : List Word) (rs : List Rect) :
    ({ s with host := rest, responses := ws, presents := rs } : State).Inv :=
  ⟨hs.params, hs.galpha, hs.ranges, hs.status, hs.dstate, hs.memories⟩

/-- The reset values of the registers are legal (70_reset R291). -/
theorem resetOf_inv {p : Params} {surf : List Host.Cell} (hp : p.legal) (hsurf : Memory.wf (memSize p) surf) :
    (State.resetOf p surf).Inv where
  params := hp
  galpha := show galphaLegal 0x3FF0000000000000 = true by decide +kernel
  ranges := by
    have hends : badRange 0 0x406FE00000000000 = false := by decide +kernel
    intro c _
    cases c <;> exact hends
  status := by simp [statusLegal, State.resetOf]
  dstate := rfl
  memories := ⟨memory_wf_nil _, hsurf, by simp [State.resetOf]⟩

theorem applyReset_inv {s : State} (hs : s.Inv) : s.applyReset.Inv := by
  obtain ⟨-, hsurf, hlate⟩ := hs.memories
  have hreset := resetOf_inv hs.params (settleWith_surf_wf hsurf hlate fun _ => false)
  exact ⟨hreset.params, hreset.galpha, hreset.ranges, hreset.status, hreset.dstate, hreset.memories⟩

/-- A word taken keeps the invariant, and so does whatever ends the step. -/
theorem StepParts.keeps_inv {s t : State} (h : StepParts s t) (hs : s.Inv) : t.Inv := by
  induction h with
  | held => exact hs
  | collect d _ hlegal _ ih => exact ih (taken_inv hs _ hlegal)
  | command d n _ hlegal heffect hsettled => exact hsettled.keeps_inv (heffect.keeps_inv (taken_inv hs _ hlegal))
  | port _ _ heffect => exact heffect.keeps_inv (inv_of_streams hs _ _ _)
  | takeResponse => exact inv_of_streams hs _ _ _
  | takePresent => exact inv_of_streams hs _ _ _
  | reset => exact applyReset_inv (inv_of_streams hs _ _ _)

/-- Settles O55: each part of a step keeps the invariant. -/
theorem stepKeepsTheInvariant : Obligations.StepKeepsTheInvariant :=
  fun _ _ hs hstep => (step_parts hstep).keeps_inv hs

end Sys2Proof.Machine
end

section
/-! The control registers: the layout of STATUS and GEOM, and who writes them (10_state R34 to R44). -/
namespace Sys2Proof.Machine

/-- Settles O27: the bits of the fields side by side, from the lowest up. -/
theorem statusWordFields : Obligations.StatusWordFields := by
  intro st i
  show @BitVec.getLsbD (40 + (8 + (7 + (1 + (4 + 4)))))
    (0#40 ++ (st.fop ++ (0#7 ++ (BitVec.ofBool st.halted ++ (0#4 ++ st.fcode))))) i = _
  simp only [BitVec.getLsbD_append, BitVec.getLsbD_zero, BitVec.getLsbD_ofBool]
  have hfield : i < 4 ∨ (4 ≤ i ∧ i < 8) ∨ i = 8 ∨ (9 ≤ i ∧ i < 16) ∨ (16 ≤ i ∧ i < 24) ∨ 24 ≤ i := by omega
  rcases hfield with hfcode | hzero | rfl | hzero | hfop | hzero
  · simp (disch := omega) only [if_pos]
  · simp (disch := omega) only [if_pos, if_neg]
  · simp
  · simp (disch := omega) only [if_pos, if_neg]
  · simp (disch := omega) only [if_pos, if_neg]
  · simp (disch := omega) only [if_neg]

theorem geomWord_width {p : Params} (h : p.legal) : ((geomWord p).extractLsb' 0 32).toNat = p.width := by
  obtain ⟨-, hbound, -⟩ := h
  rw [geomWord, BitVec.extractLsb'_append_eq_right, BitVec.toNat_ofNat]
  omega

theorem geomWord_height {p : Params} (h : p.legal) : ((geomWord p).extractLsb' 32 32).toNat = p.height := by
  obtain ⟨-, -, -, hbound, -⟩ := h
  rw [geomWord, BitVec.extractLsb'_append_eq_left, BitVec.toNat_ofNat]
  omega

theorem CommandEffect.sameFrame {n : OpName} {s t : State} (h : CommandEffect n s t) : SameFrame s t := by
  cases h <;> exact ⟨rfl, rfl, rfl, rfl, rfl, rfl⟩

/-- Which registers the effects of an opcode write, and when STATUS (10_state R44, R35). -/
theorem CommandEffect.register_writes {n : OpName} {s t : State} (h : CommandEffect n s t) :
    (t.mode ≠ s.mode → n = .setmode) ∧ (t.galpha ≠ s.galpha → n = .setga) ∧
      (t.rlo ≠ s.rlo ∨ t.rhi ≠ s.rhi → n = .setrange) ∧ (t.fill ≠ s.fill → n = .setfill) ∧
      (t.status ≠ s.status → s.status.halted = false ∧ t.status.halted = true) := by
  cases h with
  | nothing | paint | respond => simp
  | fault f op running => simp [running]
  | setMode m name => simp [name]
  | setGalpha ga name => simp [name]
  | setRange c low high name => simp [name]
  | setFill q name => simp [name]

theorem PortEffect.params {s t : State} (h : PortEffect s t) : t.params = s.params := by
  cases h
  rfl

theorem StepParts.params {s t : State} (h : StepParts s t) : t.params = s.params := by
  induction h with
  | collect d _ _ _ ih => exact ih
  | command d n _ _ heffect hsettled => exact hsettled.params.trans heffect.sameFrame.params
  | port _ _ heffect => exact heffect.params
  | held | takeResponse | takePresent | reset => rfl

/-- Settles O28: W and H fit their halves, and no part of a step changes the parameters. -/
theorem geomIsHardwired : Obligations.GeomIsHardwired :=
  ⟨fun _ hlegal => ⟨geomWord_width hlegal, geomWord_height hlegal⟩,
    fun _ _ hstep => congrArg geomWord (step_parts hstep).params⟩

/-- Settles O29: by the effects a command of its opcode can have. -/
theorem onlySetCommandsWriteRegisters : Obligations.OnlySetCommandsWriteRegisters := by
  intro i s t hexec
  have heffect := exec_effect hexec
  obtain ⟨hmode, hgalpha, hrange, hfill, hstatus⟩ := heffect.register_writes
  exact ⟨hmode, hgalpha, hrange, hfill, hstatus, congrArg geomWord heffect.sameFrame.params⟩

end Sys2Proof.Machine
end

section
/-! The command stream and the streams back to the host: a packet that stays incomplete, the words CPOS counts, and what
the responses and events do in a step (10_state R32, R48, R50; 70_reset R301). -/
namespace Sys2Proof.Machine

open Sys2Proof.Claims

/-- With nothing next the state is held (60_exceptions R279). -/
theorem step_of_nothing_next {s : State} (h : s.host = []) : step s = .next s := by
  rw [step, h]
  exact congrArg Host.Outcome.next (by rw [← h])

/-- Settles O10: the words are collected one by one, from the header or from inside the packet. -/
theorem partialPacketChangesOnlyTheDecoder : Obligations.PartialPacketChangesOnlyTheDecoder := by
  intro s hdr got more rest hready hlt
  constructor
  · rintro ⟨hidle, rfl, hhost⟩ t
    have hstep : step s = step t := by
      rw [step, hhost, List.map_cons, List.cons_append, runHost_header _ hready hidle (by omega)]
      exact runHost_collect hdr more rest [] _ hready rfl rfl hlt
    exact ⟨hstep, fun hrest => hstep.trans (step_of_nothing_next hrest)⟩
  · rintro ⟨hcollecting, hhost⟩ t
    have hstep : step s = step t := by
      rw [step, hhost]
      exact runHost_collect hdr more rest got s hready hcollecting hhost hlt
    exact ⟨hstep, fun hrest => hstep.trans (step_of_nothing_next hrest)⟩

@[simp] theorem wordCount_word (w : Word) (rest : List HostAct) :
    wordCount (.word w :: rest) = wordCount rest + 1 := by
  simp [wordCount]

theorem wordCount_other {a : HostAct} (h : ∀ w, a ≠ .word w) (rest : List HostAct) :
    wordCount (a :: rest) = wordCount rest := by
  cases a with
  | word w => exact absurd rfl (h w)
  | _ => rfl

theorem PortEffect.cpos_host {s t : State} (h : PortEffect s t) : t.cpos = s.cpos ∧ t.host = s.host := by
  cases h
  exact ⟨rfl, rfl⟩

/-- A step without reset counts the words it takes and leaves the rest of the stream in order (10_state R32). -/
theorem StepParts.counts_words {s t : State} (h : StepParts s t) (hreset : HostAct.reset ∉ s.host) :
    t.cpos + wordCount t.host = s.cpos + wordCount s.host ∧ t.host <:+ s.host := by
  induction h with
  | held s => exact ⟨rfl, List.suffix_rfl⟩
  | collect d next _ _ ih =>
    rw [next] at hreset ⊢
    obtain ⟨hcount, hsuffix⟩ := ih fun hmem => hreset (List.mem_cons_of_mem _ hmem)
    simp only [State.taken] at hcount hsuffix
    exact ⟨by rw [hcount, wordCount_word]; omega, hsuffix.trans (List.suffix_cons _ _)⟩
  | command d n next _ heffect hsettled =>
    obtain ⟨hcpos, hhost⟩ := hsettled.cpos_host
    rw [hcpos, hhost, heffect.sameFrame.cpos, heffect.sameFrame.host, next, wordCount_word]
    exact ⟨by simp only [State.taken]; omega, List.suffix_cons _ _⟩
  | port next noWord heffect =>
    obtain ⟨hcpos, hhost⟩ := heffect.cpos_host
    rw [hcpos, hhost, next, wordCount_other noWord]
    exact ⟨rfl, List.suffix_cons _ _⟩
  | takeResponse next | takePresent next =>
    rw [next, wordCount_other (by simp)]
    exact ⟨rfl, List.suffix_cons _ _⟩
  | reset next => simp [next] at hreset

/-- Settles O12: by the parts of a step, and by the registers' definition. -/
theorem cposCountsTheWordsTaken : Obligations.CposCountsTheWordsTaken := by
  refine ⟨fun s rest hhost => ?_, fun s t hreset hstep => (step_parts hstep).counts_words hreset, fun s n r => ?_⟩
  · exact ⟨_, by rw [step, hhost, runHost_reset], rfl, rfl⟩
  · cases r <;> rfl

theorem CommandEffect.streams_grow {n : OpName} {s t : State} (h : CommandEffect n s t) :
    s.responses <+: t.responses ∧ s.presents <+: t.presents := by
  cases h with
  | paint => exact ⟨List.prefix_rfl, List.prefix_append _ _⟩
  | respond => exact ⟨List.prefix_append _ _, List.prefix_rfl⟩
  | _ => exact ⟨List.prefix_rfl, List.prefix_rfl⟩

theorem PortEffect.streams {s t : State} (h : PortEffect s t) :
    t.responses = s.responses ∧ t.presents = s.presents := by
  cases h
  exact ⟨rfl, rfl⟩

/-- A step in which the host takes nothing and applies no reset only adds to the streams (10_state R50). -/
theorem StepParts.streams_grow {s t : State} (h : StepParts s t) (hreset : HostAct.reset ∉ s.host)
    (hresponse : HostAct.takeResponse ∉ s.host) (hpresent : HostAct.takePresent ∉ s.host) :
    s.responses <+: t.responses ∧ s.presents <+: t.presents := by
  induction h with
  | held s => exact ⟨List.prefix_rfl, List.prefix_rfl⟩
  | collect d next _ _ ih =>
    rw [next] at hreset hresponse hpresent
    exact ih (List.not_mem_of_not_mem_cons hreset) (List.not_mem_of_not_mem_cons hresponse)
      (List.not_mem_of_not_mem_cons hpresent)
  | command d n _ _ heffect hsettled =>
    obtain ⟨hresponses, hpresents⟩ := hsettled.streams
    rw [hresponses, hpresents]
    exact heffect.streams_grow
  | port _ _ heffect =>
    obtain ⟨hresponses, hpresents⟩ := heffect.streams
    rw [hresponses, hpresents]
    exact ⟨List.prefix_rfl, List.prefix_rfl⟩
  | takeResponse next => simp [next] at hresponse
  | takePresent next => simp [next] at hpresent
  | reset next => simp [next] at hreset

/-- A word that finds a stream full waits, and the state is held (70_reset R301). -/
theorem step_of_full_stream {s : State} {w : Word} {rest : List HostAct} (hhost : s.host = .word w :: rest)
    (hfull : s.params.responseDepth ≤ s.responses.length ∨ s.params.presentDepth ≤ s.presents.length) :
    step s = .next s := by
  have hready : s.ready = false := by
    simp only [State.ready, Bool.and_eq_false_iff, decide_eq_false_iff_not, not_lt]
    exact hfull
  rw [step, hhost, runHost_wait w rest hready, ← hhost]

/-- Settles O59: the host takes from the front, commands add at the end, and a full stream holds the next word back. -/
theorem hostTakesTheOldestFirst : Obligations.HostTakesTheOldestFirst := by
  refine ⟨fun s rest => ⟨fun hhost => ?_, fun hhost => ?_, fun w => step_of_full_stream⟩,
    fun s t hreset hresponse hpresent hstep => (step_parts hstep).streams_grow hreset hresponse hpresent⟩
  · rw [step, hhost, runHost_takeResponse]
    exact ⟨fun hnone => by simp [State.takeResponse, hnone], fun w ws hsome => by simp [State.takeResponse, hsome]⟩
  · rw [step, hhost, runHost_takePresent]
    exact ⟨fun hnone => by simp [State.takePresent, hnone], fun r rs hsome => by simp [State.takePresent, hsome]⟩

end Sys2Proof.Machine
end

section
/-! Words as bytes (20_memory R80). -/
namespace Sys2Proof

theorem wordBytes_getElem? (w : Word) {k : Nat} (hk : k < 8) : (wordBytes w)[k]? = some (wordByte w k) := by
  simp [wordBytes, hk]

theorem wordByte_getLsbD (w : Word) (k : Nat) {j : Nat} (hj : j < 8) :
    (wordByte w k).getLsbD j = w.getLsbD (8 * k + j) := by
  simp [wordByte, hj]

/-- The low `a` bits of a word and the byte above them are its low `8 + a` bits. -/
theorem extractLsb'_join (w : Word) (a : Nat) : w.extractLsb' a 8 ++ w.extractLsb' 0 a = w.extractLsb' 0 (8 + a) :=
  BitVec.extractLsb'_append_extractLsb'_eq_extractLsb' (Nat.zero_add a).symm

theorem wordOfBytes_wordByte (w : Word) :
    wordOfBytes (wordByte w 0) (wordByte w 1) (wordByte w 2) (wordByte w 3) (wordByte w 4) (wordByte w 5)
      (wordByte w 6) (wordByte w 7) = w := by
  unfold wordOfBytes wordByte
  iterate 7 rw [extractLsb'_join]
  exact BitVec.extractLsb'_eq_self

/-- The bytes of a word at the head of a transfer give that word. -/
theorem wordsOfBytes_append (w : Word) (bs : List Byte) :
    wordsOfBytes (wordBytes w ++ bs) = (wordsOfBytes bs).map (w :: ·) := by
  calc wordsOfBytes (wordBytes w ++ bs)
      = (wordsOfBytes bs).map (wordOfBytes (wordByte w 0) (wordByte w 1) (wordByte w 2) (wordByte w 3) (wordByte w 4)
          (wordByte w 5) (wordByte w 6) (wordByte w 7) :: ·) := rfl
    _ = (wordsOfBytes bs).map (w :: ·) := by rw [wordOfBytes_wordByte]

/-- Settles O6: bit by bit, and word by word of the transfer. -/
theorem wordsTravelLittleEndian : Obligations.WordsTravelLittleEndian := by
  refine ⟨fun w k j hk hj => ?_, fun ws => ?_⟩
  · rw [wordBytes_getElem? w hk, Option.map_some, wordByte_getLsbD w k hj]
  · induction ws with
    | nil => rfl
    | cons w ws ih => rw [List.flatMap_cons, wordsOfBytes_append, ih, Option.map_some]

end Sys2Proof
end

section
/-! The configuration commands: registers and STATUS only (20_memory R93, 43_config R230). -/
namespace Sys2Proof.Machine

/-- Both memories, both streams and the number of the free values are the same. -/
structure SamePixels (s t : State) : Prop where
  hdr : t.hdr = s.hdr
  surf : t.surf = s.surf
  responses : t.responses = s.responses
  presents : t.presents = s.presents
  draws : t.draws = s.draws

theorem SamePixels.refl (s : State) : SamePixels s s := ⟨rfl, rfl, rfl, rfl, rfl⟩

theorem raise_samePixels (s : State) (f : FaultInfo) (op : BitVec 8) : SamePixels s (s.raise f op) :=
  ⟨rfl, rfl, rfl, rfl, rfl⟩

theorem unlessHalted_samePixels {s : State} {f : State → State} (h : SamePixels s (f s)) :
    SamePixels s (s.unlessHalted f) := by
  cases hh : s.status.halted with
  | true => rw [unlessHalted_halted hh]; exact .refl s
  | false => rw [unlessHalted_running hh]; exact h

theorem selectMode_samePixels (s : State) (msel : BitVec 5) : SamePixels s (s.selectMode msel) := by
  unfold State.selectMode
  split
  · exact ⟨rfl, rfl, rfl, rfl, rfl⟩
  · exact raise_samePixels s _ _

theorem chooseMode_samePixels (s : State) (m : BlendMode) : SamePixels s (s.chooseMode m) :=
  unlessHalted_samePixels ⟨rfl, rfl, rfl, rfl, rfl⟩

/-- A configuration command writes a register, raises a fault or does nothing. -/
theorem config_samePixels {i : Instr} (h : i.opName ∈ [OpName.nop, .setmode, .setga, .setrange, .setfill])
    (s : State) : ∃ t, exec i s = .next t ∧ SamePixels s t := by
  cases i with
  | nop => exact ⟨_, rfl, .refl s⟩
  | setmode msel => exact ⟨_, rfl, unlessHalted_samePixels (selectMode_samePixels s msel)⟩
  | setga ga =>
    refine ⟨_, rfl, unlessHalted_samePixels ?_⟩
    split
    · exact raise_samePixels s _ _
    · exact ⟨rfl, rfl, rfl, rfl, rfl⟩
  | setrange c low high =>
    refine ⟨_, rfl, unlessHalted_samePixels ?_⟩
    split
    · exact raise_samePixels s _ _
    · exact ⟨rfl, rfl, rfl, rfl, rfl⟩
  | setfill | setfillDa => exact ⟨_, rfl, unlessHalted_samePixels ⟨rfl, rfl, rfl, rfl, rfl⟩⟩
  | blendpx | blendpxDa | fillrect | clearrect | drawimg | tonemap | tonemapall | readpx | mappx | extract | rdreg =>
    simp [Instr.opName] at h
  | _ => exact ⟨_, rfl, chooseMode_samePixels s _⟩

/-- Settles O30: command by command. -/
theorem configurationTouchesNoPixel : Obligations.ConfigurationTouchesNoPixel := by
  intro i s t hname hexec
  obtain ⟨u, hu, hdr, surf, responses, presents, draws⟩ := config_samePixels hname s
  rw [hu] at hexec
  cases hexec
  exact ⟨hdr, surf, responses, presents, draws⟩

end Sys2Proof.Machine
end

section
/-! The waiting host accesses: the last write to a byte, and what the reads give when they are settled (20_memory R88;
log 8). -/
namespace Sys2Proof.Machine

open Sys2Proof.Claims

theorem noWrite_cons {a : LateAccess} {l : List LateAccess} {j : Nat} :
    NoWrite (a :: l) j ↔ (∀ b w, a ≠ .write j b w) ∧ NoWrite l j := by
  simp only [NoWrite, List.mem_cons, not_or, forall_and, ne_comm (a := a), ne_eq]

theorem lastWrite_eq_none_iff {l : List LateAccess} {j : Nat} : lastWrite l j = none ↔ NoWrite l j := by
  induction l with
  | nil => simp [lastWrite, NoWrite]
  | cons a rest ih =>
    rw [noWrite_cons, ← ih]
    cases a with
    | write i b w => simp [lastWrite, and_comm]
    | read i v junk => simp [lastWrite]

theorem lastWrite_append_write {post : List LateAccess} {j : Nat} (hpost : NoWrite post j) (pre : List LateAccess)
    (b : Byte) (w : Bool) : lastWrite (pre ++ .write j b w :: post) j = some b := by
  induction pre with
  | nil => simp [lastWrite, lastWrite_eq_none_iff.2 hpost]
  | cons a rest ih => cases a <;> simp [lastWrite, ih]

/-- Where some write to a byte waits, one of them is the last. -/
theorem exists_split_of_lastWrite {l : List LateAccess} {j : Nat} {b : Byte} (h : lastWrite l j = some b) :
    ∃ pre post w, l = pre ++ .write j b w :: post ∧ NoWrite post j := by
  induction l with
  | nil => cases h
  | cons a rest ih =>
    cases hrest : lastWrite rest j with
    | some b' =>
      have hb : b' = b := by cases a <;> simpa [lastWrite, hrest] using h
      obtain ⟨pre, post, w, hsplit, hpost⟩ := ih (hb ▸ hrest)
      exact ⟨a :: pre, post, w, by rw [hsplit, List.cons_append], hpost⟩
    | none =>
      cases a with
      | read i v junk => simp [lastWrite, hrest] at h
      | write i v w =>
        obtain ⟨rfl, rfl⟩ : i = j ∧ v = b := by simpa [lastWrite, hrest] using h
        exact ⟨[], rest, w, rfl, lastWrite_eq_none_iff.1 hrest⟩

/-- The value recorded for a waiting read is what the byte holds for the host. -/
theorem hostByte_lastWrite (l : List LateAccess) (j : Nat) (old : Byte) :
    HostByte l j old ((lastWrite l j).getD old) := by
  cases h : lastWrite l j with
  | none => exact .inl ⟨lastWrite_eq_none_iff.1 h, rfl⟩
  | some b => exact .inr (exists_split_of_lastWrite h)

/-- The settled reads, as a filter of the waiting accesses that picks each read's byte and no write. -/
theorem returned_eq_filterMap {covers : Nat → Bool} {f : LateAccess → Option Byte}
    (hread : ∀ i v junk, f (.read i v junk) = some (if covers i then junk else v))
    (hwrite : ∀ i b w, f (.write i b w) = none) (l : List LateAccess) : returned covers l = l.filterMap f := by
  induction l with
  | nil => rfl
  | cons a rest ih =>
    cases a with
    | write i b w => rw [returned, ih, List.filterMap_cons_none (hwrite i b w)]
    | read i v junk => rw [returned, ih, List.filterMap_cons_some (hread i v junk)]

/-- Settles O60: the last write to a byte decides, and the reads are settled in order. -/
theorem racedHostWriteEndsWithOneOfTwoValues : Obligations.RacedHostWriteEndsWithOneOfTwoValues := by
  intro s touched hsurf
  have hread := settleWith_surfRead s fun j => touched.any fun r => r.coversIndex s.params j
  refine ⟨⟨(s.settle touched).surf, ?_⟩, fun j hnone => (hread j hsurf.1).1 (lastWrite_eq_none_iff.2 hnone),
    fun j b w pre post hlate hpost => ?_⟩
  · rw [← returned_eq_filterMap (covers := fun j => touched.any fun r => r.coversIndex s.params j)
      (fun _ _ _ => rfl) (fun _ _ _ => rfl)]
    rfl
  · obtain ⟨htwo, huncovered⟩ := (hread j hsurf.1).2 b (hlate ▸ lastWrite_append_write hpost pre b w)
    refine ⟨htwo, fun houtside => huncovered ?_⟩
    cases touched with
    | none => rfl
    | some r => exact houtside r rfl

end Sys2Proof.Machine
end

section
/-! The host's SURF port (20_memory R77, R87, R88; 70_reset R297). -/
namespace Sys2Proof.Machine

open Sys2Proof.Claims

/-- The commands that use SURF, by opcode (70_reset R297). -/
theorem usesSurf_iff (hdr : Word) :
    usesSurf hdr = true ↔ hdr.extractLsb' 0 8 ∈ [(0x10 : BitVec 8), 0x11, 0x12, 0x13, 0x20, 0x21] := by
  rw [usesSurf]
  change _ ↔ hdrOp hdr ∈ _
  cases h : opOfCode (hdrOp hdr) with
  | some n =>
    rw [← code_of_opOfCode h]
    cases n <;> decide
  | none =>
    refine iff_of_false (by simp) fun hmem => ?_
    have hcodes : hdrOp hdr ∈ [OpName.blendpx, .fillrect, .clearrect, .drawimg, .tonemap, .tonemapall].map
        OpName.code := hmem
    obtain ⟨n, -, hcode⟩ := List.mem_map.1 hcodes
    rw [← hcode, opOfCode_code] at h
    cases h

theorem surfBusy_iff (s : State) : s.surfBusy = true ↔ s.late ≠ [] ∨ ∃ hdr got, s.dstate = .collecting hdr got ∧
    s.status.halted = false ∧ hdr.extractLsb' 0 8 ∈ [(0x10 : BitVec 8), 0x11, 0x12, 0x13, 0x20, 0x21] := by
  rw [State.surfBusy, Bool.or_eq_true]
  refine or_congr (by simp) ?_
  cases s.dstate with
  | idle => simp
  | collecting hdr got =>
    rw [Bool.and_eq_true, Bool.not_eq_true', usesSurf_iff]
    constructor
    · rintro ⟨hrun, huses⟩
      exact ⟨hdr, got, rfl, hrun, huses⟩
    · rintro ⟨_, _, ⟨⟩, hrun, huses⟩
      exact ⟨hrun, huses⟩

section
variable {s : State} {j : Nat} {rest : List HostAct}

theorem atSurf_inside (hj : j < memSize s.params) (f : State → State) :
    ({ s with host := rest } : State).atSurf j f = .next (f { s with host := rest }) := if_pos hj

theorem atSurf_outside (hj : memSize s.params ≤ j) (f : State → State) :
    ({ s with host := rest } : State).atSurf j f = .fault (.surfIndex j) := if_neg (Nat.not_lt.2 hj)

/-- A write that waits is in the byte at once or not, and changes no other byte. -/
theorem lateWrite_eq (hsurf : s.surf.Pairwise fun c d => c.1 < d.1) (b : Byte) :
    ∃ m, s.lateWrite j b = { s with
        surf := m
        late := s.late ++ [.write j b (Config.raceWins s.draws)]
        draws := s.draws + 1 } ∧
      (cellRead m j = if Config.raceSeen s.draws then b else s.surfRead j) ∧
      ∀ k, k ≠ j → cellRead m k = s.surfRead k := by
  unfold State.lateWrite
  cases Config.raceSeen s.draws with
  | true => exact ⟨cellWrite s.surf j b, rfl, cellRead_write_same _ hsurf j b, fun k hk => cellRead_write_other _ hk b⟩
  | false => exact ⟨s.surf, rfl, rfl, fun k _ => rfl⟩

variable {b : Byte} (hj : j < memSize s.params)
include hj

theorem step_surfWrite (hbusy : s.surfBusy = false) (hhost : s.host = .surfWrite j b :: rest) :
    step s = .next { s with surf := cellWrite s.surf j b, host := rest } := by
  rw [step, hhost, runHost_surfWrite, atSurf_inside hj]
  exact congrArg Host.Outcome.next (if_neg (ne_true_of_eq_false hbusy))

theorem step_surfRead (hbusy : s.surfBusy = false) (hhost : s.host = .surfRead j :: rest) :
    step s = .next { s with hostReads := s.hostReads ++ [s.surfRead j], host := rest } := by
  rw [step, hhost, runHost_surfRead, atSurf_inside hj]
  exact congrArg Host.Outcome.next (if_neg (ne_true_of_eq_false hbusy))

/-- A write waits where SURF is busy, and where it is made in a command's execution. -/
theorem step_lateWrite
    (hhost : s.surfBusy = true ∧ s.host = .surfWrite j b :: rest ∨ s.host = .raceWrite j b :: rest) :
    step s = .next (({ s with host := rest } : State).lateWrite j b) := by
  rcases hhost with ⟨hbusy, hhost⟩ | hhost
  · rw [step, hhost, runHost_surfWrite, atSurf_inside hj]
    exact congrArg Host.Outcome.next (if_pos hbusy)
  · rw [step, hhost, runHost_raceWrite, atSurf_inside hj]

/-- A read waits where SURF is busy, and where it is made in a command's execution. -/
theorem step_lateRead (hhost : s.surfBusy = true ∧ s.host = .surfRead j :: rest ∨ s.host = .raceRead j :: rest) :
    step s = .next (({ s with host := rest } : State).lateRead j) := by
  rcases hhost with ⟨hbusy, hhost⟩ | hhost
  · rw [step, hhost, runHost_surfRead, atSurf_inside hj]
    exact congrArg Host.Outcome.next (if_pos hbusy)
  · rw [step, hhost, runHost_raceRead, atSurf_inside hj]

end

/-- An access to a byte the port does not have stops the machine (log 10). -/
theorem step_outside_surf {s : State} {j : Nat} {b : Byte} {rest : List HostAct} (hj : memSize s.params ≤ j)
    (hhost : s.host ∈ [HostAct.surfWrite j b, .surfRead j, .raceWrite j b, .raceRead j].map (· :: rest)) :
    step s = .fault (.surfIndex j) := by
  simp only [List.map_cons, List.map_nil, List.mem_cons, List.not_mem_nil, or_false] at hhost
  rcases hhost with hhost | hhost | hhost | hhost <;> rw [step, hhost]
  · rw [runHost_surfWrite, atSurf_outside hj]
  · rw [runHost_surfRead, atSurf_outside hj]
  · rw [runHost_raceWrite, atSurf_outside hj]
  · rw [runHost_raceRead, atSurf_outside hj]

/-- Settles O58: the four accesses of the port, at an index it has and at one it does not have. -/
theorem hostPortReachesSurfOnly : Obligations.HostPortReachesSurfOnly := by
  refine ⟨surfBusy_iff, fun s j b rest hinv => ?_⟩
  obtain ⟨-, ⟨hsurf, -⟩, -⟩ := hinv.memories
  refine ⟨fun hj => ⟨fun hbusy hhost => ?_, step_surfRead hj, fun hhost => ?_,
    fun hhost => ⟨_, step_lateRead hj hhost, hostByte_lastWrite s.late j (s.surfRead j)⟩⟩, step_outside_surf⟩
  · exact ⟨_, step_surfWrite hj hbusy hhost, cellRead_write_same _ hsurf j b,
      fun k hk => cellRead_write_other _ hk b⟩
  · obtain ⟨m, hlate, hread⟩ := lateWrite_eq (s := { s with host := rest }) (j := j) hsurf b
    exact ⟨m, (step_lateWrite hj hhost).trans (congrArg Host.Outcome.next hlate), hread⟩

end Sys2Proof.Machine
end

section
/-! Packets and instructions, both ways (30_encoding R100, R101, R107, R114). A legal header is the one its command
writes from the fields the command uses, so encoding and decoding meet in `OpName.header`. -/
namespace Sys2Proof

/-! ## The header of a command -/

/-- The header of a command that has, of the fields of `hdr`, those the command uses, and 0 in every other bit. -/
def OpName.header (n : OpName) (hdr : Word) : Word :=
  mkHeader n.code (bif n.fields.msel then hdrMsel hdr else 0) (bif n.fields.ch then hdrCh hdr else 0)
    (bif n.fields.da then hdrDa hdr else 0) (bif n.fields.ridx then hdrRidx hdr else 0)

/-- Two words are the same exactly where their six fields are. -/
theorem header_ext_iff {v w : Word} : v = w ↔ hdrOp v = hdrOp w ∧ hdrReserved v = hdrReserved w ∧
    hdrMsel v = hdrMsel w ∧ hdrCh v = hdrCh w ∧ hdrDa v = hdrDa w ∧ hdrRidx v = hdrRidx w := by
  constructor
  · rintro rfl
    exact ⟨rfl, rfl, rfl, rfl, rfl, rfl⟩
  · rintro ⟨hop, hres, hmsel, hch, hda, hridx⟩
    exact header_ext hop hmsel hch hda hridx hres

theorem used_or_zero_iff {k : Nat} (used : Bool) (field : BitVec k) :
    (used || field == 0) = true ↔ (bif used then field else 0) = field := by
  cases used
  · rw [Bool.false_or, beq_iff_eq, cond_false, eq_comm]
  · exact iff_of_true rfl rfl

/-- A header is its command's exactly where it has none of the grounds of 30_encoding R114 that do not concern RIDX. -/
theorem header_eq_iff (n : OpName) (hdr : Word) :
    n.header hdr = hdr ↔ n.code = hdrOp hdr ∧ hdrReserved hdr = 0 ∧ unusedFieldsZero n hdr = true := by
  rw [header_ext_iff]
  simp only [OpName.header, hdrOp_mkHeader, hdrMsel_mkHeader, hdrCh_mkHeader, hdrDa_mkHeader, hdrRidx_mkHeader,
    hdrReserved_mkHeader, unusedFieldsZero, Bool.and_eq_true, used_or_zero_iff, and_assoc,
    @eq_comm _ (0 : BitVec 43)]

/-- A packet decodes exactly where its header is its command's and the command can be built from it. -/
theorem decodePacket_eq_ok_iff {hdr : Word} {ops : List Word} {i : Instr} :
    decodePacket hdr ops = .ok i ↔ ∃ n : OpName, n.header hdr = hdr ∧ buildInstr n hdr ops = .ok i := by
  constructor
  · intro h
    obtain ⟨n, hop, hres, hunused, hbuild⟩ := decodePacket_ok h
    exact ⟨n, (header_eq_iff n hdr).2 ⟨code_of_opOfCode hop, hres, hunused⟩, hbuild⟩
  · rintro ⟨n, hheader, hbuild⟩
    obtain ⟨hop, hres, hunused⟩ := (header_eq_iff n hdr).1 hheader
    rw [decodePacket_some (by rw [← hop, opOfCode_code]), if_neg (not_not.2 hres), if_neg (by simp [hunused]), hbuild]

/-! ## The named SETMODE rows (30_encoding R112) -/

theorem eq_setter_of_selects {i : Instr} {m : BlendMode} (h : i.selects = some m) : i = m.setter := by
  cases i <;> cases h <;> rfl

theorem encode_setter (m : BlendMode) : encode m.setter = [setmodeHeader m.code] := by cases m <;> rfl

theorem setter_wellFormed (m : BlendMode) : m.setter.WellFormed := by cases m <;> rfl

theorem setmodeOf_code (m : BlendMode) : setmodeOf m.code = m.setter := by simp [setmodeOf]

theorem setmodeOf_unknown {msel : BitVec 5} (h : 20 ≤ msel.toNat) : setmodeOf msel = .setmode msel := by
  simp [setmodeOf, (modeOfCode_eq_none msel).2 h]

/-- An MSEL value is a mode's or one of 20 to 31 (30_encoding R112, R113). -/
theorem msel_cases (msel : BitVec 5) : (∃ m : BlendMode, m.code = msel) ∨ 20 ≤ msel.toNat := by
  cases hm : modeOfCode msel with
  | none => exact .inr ((modeOfCode_eq_none msel).1 hm)
  | some m => exact .inl ⟨m, code_of_modeOfCode hm⟩

theorem setmodeOf_wellFormed_encode (msel : BitVec 5) :
    (setmodeOf msel).WellFormed ∧ encode (setmodeOf msel) = [setmodeHeader msel] := by
  rcases msel_cases msel with ⟨m, rfl⟩ | hunknown
  · rw [setmodeOf_code]
    exact ⟨setter_wellFormed m, encode_setter m⟩
  · rw [setmodeOf_unknown hunknown]
    exact ⟨decide_eq_true hunknown, rfl⟩

/-! ## Operand words -/

section
variable {ops : List Word} {j : Instr}

theorem take0_eq_ok {i : Instr} : take0 i ops = .ok j ↔ ops = [] ∧ i = j := by
  unfold take0
  split <;> simp

theorem take1_eq_ok {f : Word → Instr} : take1 f ops = .ok j ↔ ∃ u, ops = [u] ∧ f u = j := by
  unfold take1
  split
  · simp
  · rename_i hshape
    simpa using fun u hops => absurd hops (hshape u)

theorem take2_eq_ok {f : Word → Word → Instr} : take2 f ops = .ok j ↔ ∃ u v, ops = [u, v] ∧ f u v = j := by
  unfold take2
  split
  · simp
  · rename_i hshape
    simpa using fun u v hops => absurd hops (hshape u v)

theorem take4_eq_ok {f : Word → Word → Word → Word → Instr} :
    take4 f ops = .ok j ↔ ∃ u v w x, ops = [u, v, w, x] ∧ f u v w x = j := by
  unfold take4
  split
  · simp
  · rename_i hshape
    simpa using fun u v w x hops => absurd hops (hshape u v w x)

theorem take6_eq_ok {f : Word → Word → Word → Word → Word → Word → Instr} :
    take6 f ops = .ok j ↔ ∃ u v w x y z, ops = [u, v, w, x, y, z] ∧ f u v w x y z = j := by
  unfold take6
  split
  · simp
  · rename_i hshape
    simpa using fun u v w x y z hops => absurd hops (hshape u v w x y z)

theorem takeReg_eq_ok {ridx : BitVec 5} :
    takeReg ridx ops = .ok j ↔ ∃ r : Reg, r.index = ridx ∧ ops = [] ∧ .rdreg r = j := by
  unfold takeReg
  cases hr : regOfIndex ridx with
  | none =>
    refine iff_of_false nofun ?_
    rintro ⟨r, rfl, -⟩
    simp at hr
  | some r =>
    refine take0_eq_ok.trans ⟨fun h => ⟨r, index_of_regOfIndex hr, h⟩, ?_⟩
    rintro ⟨r', rfl, h⟩
    rw [regOfIndex_index] at hr
    cases hr
    exact h

end

/-! ## Both round trips -/

theorem hdrDa_cases (hdr : Word) : hdrDa hdr = 0 ∨ hdrDa hdr = 1 := by
  have hlt := (hdrDa hdr).isLt
  have : (hdrDa hdr).toNat = 0 ∨ (hdrDa hdr).toNat = 1 := by omega
  exact this.imp BitVec.eq_of_toNat_eq BitVec.eq_of_toNat_eq

/-- What a command builds from a header is well formed, and its packet has the header's used fields and the words it was
built from. -/
theorem buildInstr_encode {n : OpName} {hdr : Word} {ops : List Word} {i : Instr} (h : buildInstr n hdr ops = .ok i) :
    i.WellFormed ∧ encode i = n.header hdr :: ops := by
  cases n with
  | nop | tonemapall =>
    obtain ⟨rfl, rfl⟩ := take0_eq_ok.1 h
    exact ⟨rfl, rfl⟩
  | setmode =>
    obtain ⟨rfl, rfl⟩ := take0_eq_ok.1 h
    exact setmodeOf_wellFormed_encode _
  | setga =>
    obtain ⟨u, rfl, rfl⟩ := take1_eq_ok.1 h
    exact ⟨rfl, rfl⟩
  | setrange =>
    obtain ⟨u, v, rfl, rfl⟩ := take2_eq_ok.1 h
    exact ⟨rfl, by simp [encode, OpName.header, OpName.fields]⟩
  | readpx | mappx =>
    obtain ⟨u, v, rfl, rfl⟩ := take2_eq_ok.1 h
    exact ⟨rfl, rfl⟩
  | setfill =>
    obtain ⟨u, v, w, x, rfl, rfl⟩ := take4_eq_ok.1 h
    rcases hdrDa_cases hdr with hda | hda <;> rw [hda]
    · exact ⟨rfl, by simp [encode, plainHeader, OpName.header, OpName.fields, hda]⟩
    · exact ⟨rfl, by simp [encode, OpName.header, OpName.fields, hda]⟩
  | blendpx =>
    obtain ⟨u, v, w, x, y, z, rfl, rfl⟩ := take6_eq_ok.1 h
    rcases hdrDa_cases hdr with hda | hda <;> rw [hda]
    · exact ⟨rfl, by simp [encode, plainHeader, OpName.header, OpName.fields, hda]⟩
    · exact ⟨rfl, by simp [encode, OpName.header, OpName.fields, hda]⟩
  | fillrect | clearrect | drawimg | tonemap | extract =>
    obtain ⟨u, v, w, x, rfl, rfl⟩ := take4_eq_ok.1 h
    exact ⟨rfl, rfl⟩
  | rdreg =>
    obtain ⟨r, hr, rfl, rfl⟩ := takeReg_eq_ok.1 h
    exact ⟨rfl, by simp [encode, OpName.header, OpName.fields, hr]⟩

/-- Settles O2: the header of a packet that decodes is its command's, and so is the packet. -/
theorem encodeOfDecode : Obligations.EncodeOfDecode := by
  intro ws i h
  obtain ⟨hdr, ops, rfl, hpacket, -⟩ := decode_ok h
  obtain ⟨n, hheader, hbuild⟩ := decodePacket_eq_ok_iff.1 hpacket
  obtain ⟨hwf, hencode⟩ := buildInstr_encode hbuild
  exact ⟨hwf, by rw [hencode, hheader]⟩

/-- A header built from the fields its command uses is its command's, whatever they hold. -/
theorem decode_mkHeader {n : OpName} {msel : BitVec 5} {ch : BitVec 2} {da : BitVec 1} {ridx : BitVec 5}
    {ops : List Word} {i : Instr}
    (hfields : unusedFieldsZero n (mkHeader n.code msel ch da ridx) = true)
    (hbuild : buildInstr n (mkHeader n.code msel ch da ridx) ops = .ok i) :
    decode (mkHeader n.code msel ch da ridx :: ops) = .ok i :=
  decodePacket_eq_ok_iff.2 ⟨n, (header_eq_iff ..).2 ⟨by simp, by simp, hfields⟩, hbuild⟩

theorem decode_plainHeader {n : OpName} {ops : List Word} {i : Instr}
    (hbuild : buildInstr n (plainHeader n) ops = .ok i) :
    decode (plainHeader n :: ops) = .ok i :=
  decode_mkHeader (by simp [unusedFieldsZero]) hbuild

theorem decode_setmodeHeader (msel : BitVec 5) : decode [setmodeHeader msel] = .ok (setmodeOf msel) :=
  decode_mkHeader (by simp [unusedFieldsZero, OpName.fields]) (by simp [buildInstr, take0])

/-- The packet of an instruction that is no named SETMODE row decodes to it. -/
theorem decode_encode_of_selects_none {i : Instr} (hwf : i.WellFormed) (h : i.selects = none) :
    decode (encode i) = .ok i := by
  cases i with
  | setmode msel => exact (decode_setmodeHeader msel).trans (congrArg _ (setmodeOf_unknown (of_decide_eq_true hwf)))
  | setrange ch low high =>
    exact decode_mkHeader (by simp [unusedFieldsZero, OpName.fields]) (by simp [buildInstr, take2])
  | setfill r g b a => exact decode_plainHeader (by simp [buildInstr, take4, plainHeader])
  | setfillDa r g b a =>
    exact decode_mkHeader (by simp [unusedFieldsZero, OpName.fields]) (by simp [buildInstr, take4])
  | blendpx x y r g b a => exact decode_plainHeader (by simp [buildInstr, take6, plainHeader])
  | blendpxDa x y r g b a =>
    exact decode_mkHeader (by simp [unusedFieldsZero, OpName.fields]) (by simp [buildInstr, take6])
  | rdreg reg =>
    exact decode_mkHeader (by simp [unusedFieldsZero, OpName.fields]) (by simp [buildInstr, takeReg, take0])
  | nop | setga _ | fillrect _ _ _ _ | clearrect _ _ _ _ | drawimg _ _ _ _ | tonemap _ _ _ _ | tonemapall
  | readpx _ _ | mappx _ _ | extract _ _ _ _ => exact decode_plainHeader rfl
  | _ => cases h

/-- Settles O1: a named SETMODE row by its selector, every other instruction by its command's header. -/
theorem decodeOfEncode : Obligations.DecodeOfEncode := by
  intro i hwf
  cases h : i.selects with
  | none => exact decode_encode_of_selects_none hwf h
  | some m => rw [eq_setter_of_selects h, encode_setter, decode_setmodeHeader, setmodeOf_code]

end Sys2Proof
end

section
/-! What the spec's tables say of packets: the opcode map, the header words it writes out, the named SETMODE rows
(30_encoding R110 to R112, R121). -/
namespace Sys2Proof

/-! ## The opcode map -/

theorem opOfCode_eq_none_iff (op : BitVec 8) : opOfCode op = none ↔ ∀ n : OpName, op ≠ n.code := by
  constructor
  · rintro h n rfl
    rw [opOfCode_code] at h
    cases h
  · intro h
    cases hop : opOfCode op with
    | none => rfl
    | some n => exact absurd (code_of_opOfCode hop).symm (h n)

/-- An OP that is not listed has no operand words (30_encoding R111). -/
theorem operandCount_unlisted {op : BitVec 8} (h : ∀ n : OpName, op ≠ n.code) : operandCount op = 0 := by
  rw [operandCount, (opOfCode_eq_none_iff op).2 h]

/-- Settles O4: each listed OP by its command, and every other OP differs from all of them. -/
theorem operandCountsOfTheOpcodeMap : Obligations.OperandCountsOfTheOpcodeMap := by
  intro op
  cases hop : opOfCode op with
  | some n =>
    rw [← code_of_opOfCode hop, operandCount_code]
    cases n <;> rfl
  | none =>
    have hne := (opOfCode_eq_none_iff op).1 hop
    have four : ¬ (op = 0x04 ∨ op = 0x11 ∨ op = 0x12 ∨ op = 0x13 ∨ op = 0x20 ∨ op = 0x32) := by
      rintro (h | h | h | h | h | h)
      exacts [hne .setfill h, hne .fillrect h, hne .clearrect h, hne .drawimg h, hne .tonemap h, hne .extract h]
    have two : ¬ (op = 0x03 ∨ op = 0x30 ∨ op = 0x31) := by
      rintro (h | h | h)
      exacts [hne .setrange h, hne .readpx h, hne .mappx h]
    have one : op ≠ 0x02 := hne .setga
    have six : op ≠ 0x10 := hne .blendpx
    rw [operandCount_unlisted hne, if_neg one, if_neg two, if_neg four, if_neg six]

/-! ## The header words the spec writes out -/

theorem decode_of_encode_eq {ws : List Word} (i : Instr) (hwf : i.WellFormed) (h : encode i = ws) :
    decode ws = .ok i := by
  rw [← h]
  exact decodeOfEncode i hwf

/-- Settles O5: each packet is the one its instruction encodes to. -/
theorem specHeaderWordsDecode : Obligations.SpecHeaderWordsDecode := by
  intro x y r g b a
  exact ⟨decode_of_encode_eq .nop rfl rfl, decode_of_encode_eq .setmodeSource rfl rfl,
    decode_of_encode_eq .setmodeSourceOver rfl rfl, decode_of_encode_eq .setmodeSubtract rfl rfl,
    decode_of_encode_eq .setmodeSoftLight rfl rfl, decode_of_encode_eq (.setga x) rfl rfl,
    decode_of_encode_eq (.setrange .r x y) rfl rfl, decode_of_encode_eq (.setrange .g x y) rfl rfl,
    decode_of_encode_eq (.setrange .b x y) rfl rfl, decode_of_encode_eq (.setrange .a x y) rfl rfl,
    decode_of_encode_eq (.setfill r g b a) rfl rfl, decode_of_encode_eq (.setfillDa r g b a) rfl rfl,
    decode_of_encode_eq (.blendpx x y r g b a) rfl rfl, decode_of_encode_eq (.blendpxDa x y r g b a) rfl rfl,
    decode_of_encode_eq (.fillrect x y r g) rfl rfl, decode_of_encode_eq (.clearrect x y r g) rfl rfl,
    decode_of_encode_eq (.drawimg x y r g) rfl rfl, decode_of_encode_eq (.tonemap x y r g) rfl rfl,
    decode_of_encode_eq .tonemapall rfl rfl, decode_of_encode_eq (.readpx x y) rfl rfl,
    decode_of_encode_eq (.mappx x y) rfl rfl, decode_of_encode_eq (.extract x y r g) rfl rfl,
    decode_of_encode_eq (.rdreg .status) rfl rfl, decode_of_encode_eq (.rdreg .geom) rfl rfl⟩

/-! ## The named SETMODE rows -/

/-- The header of a SETMODE as the spec writes it (30_encoding R112). -/
theorem setmodeHeader_eq (msel : BitVec 5) : setmodeHeader msel = 0x01 ||| (msel.setWidth 64 <<< 8) := by
  revert msel
  decide

namespace Machine

theorem modeWord_eq_setWidth (m : BlendMode) : modeWord m = m.code.setWidth 64 := by
  cases m <;> rfl

/-- A named row sets MODE and nothing else, in a state that is not halted (43_config R232). -/
theorem exec_setter {s : State} (hrun : s.status.halted = false) (m : BlendMode) :
    exec m.setter s = .next { s with mode := m } := by
  have hexec : exec m.setter s = .next (s.chooseMode m) := by cases m <;> rfl
  rw [hexec, State.chooseMode, unlessHalted_running hrun, State.setMode]

/-- SETMODE with a mode's number does the same as the mode's own row. -/
theorem exec_setmode_code {s : State} (hrun : s.status.halted = false) (m : BlendMode) :
    exec (.setmode m.code) s = .next { s with mode := m } := by
  have hexec : exec (.setmode m.code) s = .next (s.unlessHalted fun t => t.selectMode m.code) := rfl
  rw [hexec, unlessHalted_running hrun, State.selectMode, modeOfCode_code]
  rfl

/-- Settles O22: the instructions that select a mode are the modes' setters. -/
theorem namedSetmodesSelectTheirModes : Obligations.NamedSetmodesSelectTheirModes := by
  intro s i m hrun hselects
  rw [eq_setter_of_selects hselects, exec_setter hrun, exec_setmode_code hrun, encode_setter, setmodeHeader_eq]
  exact ⟨rfl, rfl, rfl, modeWord_eq_setWidth m⟩

end Machine
end Sys2Proof
end

section
/-! How the stream is cut into packets, and what becomes of an illegal one (30_encoding R111, R114, R118; 60_exceptions
R266). -/
namespace Sys2Proof

open Sys2Proof.Claims

/-! ## The grounds of 30_encoding R114 -/

/-- Which fields a command uses, by its OP (30_encoding R101, last column). -/
theorem unusedFieldsZero_iff (n : OpName) (hdr : Word) : unusedFieldsZero n hdr = true ↔
    (n.code ≠ 0x01 → hdrMsel hdr = 0) ∧ (n.code ≠ 0x03 → hdrCh hdr = 0) ∧
      (n.code ≠ 0x04 → n.code ≠ 0x10 → hdrDa hdr = 0) ∧ (n.code ≠ 0x3F → hdrRidx hdr = 0) := by
  cases n <;> simp [unusedFieldsZero, OpName.fields, OpName.code, and_assoc]

theorem illegalHeader_of_unlisted {hdr : Word} (h : opOfCode (hdrOp hdr) = none) : IllegalHeader hdr :=
  .inl ((opOfCode_eq_none_iff _).1 h)

theorem not_illegalHeader_iff {n : OpName} {hdr : Word} (h : opOfCode (hdrOp hdr) = some n) :
    ¬ IllegalHeader hdr ↔ hdrReserved hdr = 0 ∧ unusedFieldsZero n hdr = true ∧
      (n.code = 0x3F → (hdrRidx hdr).toNat < 16) := by
  have hop : hdr.extractLsb' 0 8 = n.code := (code_of_opOfCode h).symm
  have hlisted : ¬ ∀ m : OpName, n.code ≠ m.code := fun hne => hne n rfl
  rw [unusedFieldsZero_iff, IllegalHeader, hop]
  simp only [hlisted, false_or, not_or, not_and, not_not, ne_eq, and_assoc, not_le]
  rfl

/-! ## What the operand words of a packet decode to -/

theorem OpName.code_injective {m n : OpName} (h : m.code = n.code) : m = n := by
  have hm := opOfCode_code m
  rw [h, opOfCode_code] at hm
  exact (Option.some.inj hm).symm

theorem regOfIndex_eq_none_iff (ridx : BitVec 5) : regOfIndex ridx = none ↔ 16 ≤ ridx.toNat := by
  revert ridx
  decide

/-- The RIDX values of registers are 0 to 15 (30_encoding R106). -/
theorem exists_index_iff (ridx : BitVec 5) : (∃ r : Reg, r.index = ridx) ↔ ridx.toNat < 16 := by
  rw [← not_le, ← regOfIndex_eq_none_iff]
  constructor
  · rintro ⟨r, rfl⟩
    simp
  · intro h
    obtain ⟨r, hr⟩ := Option.ne_none_iff_exists'.1 h
    exact ⟨r, index_of_regOfIndex hr⟩

section
variable {ops : List Word}

theorem exists_take0 (i : Instr) (h : ops.length = 0) : ∃ j, take0 i ops = .ok j :=
  match ops, h with
  | [], _ => ⟨_, rfl⟩

theorem exists_take1 (f : Word → Instr) (h : ops.length = 1) : ∃ j, take1 f ops = .ok j :=
  match ops, h with
  | [_], _ => ⟨_, rfl⟩

theorem exists_take2 (f : Word → Word → Instr) (h : ops.length = 2) : ∃ j, take2 f ops = .ok j :=
  match ops, h with
  | [_, _], _ => ⟨_, rfl⟩

theorem exists_take4 (f : Word → Word → Word → Word → Instr) (h : ops.length = 4) : ∃ j, take4 f ops = .ok j :=
  match ops, h with
  | [_, _, _, _], _ => ⟨_, rfl⟩

theorem exists_take6 (f : Word → Word → Word → Word → Word → Word → Instr) (h : ops.length = 6) :
    ∃ j, take6 f ops = .ok j :=
  match ops, h with
  | [_, _, _, _, _, _], _ => ⟨_, rfl⟩

/-- A command but RDREG is built from any header and its number of operand words. -/
theorem exists_buildInstr {n : OpName} (hn : n ≠ .rdreg) (hdr : Word) (hlen : ops.length = n.operands) :
    ∃ i, buildInstr n hdr ops = .ok i := by
  cases n with
  | nop | setmode | tonemapall => exact exists_take0 _ hlen
  | setga => exact exists_take1 _ hlen
  | setrange | readpx | mappx => exact exists_take2 _ hlen
  | setfill | fillrect | clearrect | drawimg | tonemap | extract => exact exists_take4 _ hlen
  | blendpx => exact exists_take6 _ hlen
  | rdreg => exact absurd rfl hn

/-- A command is built from its number of operand words, unless it is an RDREG of an index that no register has. -/
theorem exists_buildInstr_iff {n : OpName} {hdr : Word} (hlen : ops.length = n.operands) :
    (∃ i, buildInstr n hdr ops = .ok i) ↔ (n.code = 0x3F → (hdrRidx hdr).toNat < 16) := by
  by_cases hn : n = .rdreg
  · subst hn
    rw [← exists_index_iff]
    constructor
    · rintro ⟨i, h⟩ -
      obtain ⟨r, hr, -⟩ := takeReg_eq_ok.1 h
      exact ⟨r, hr⟩
    · intro h
      obtain ⟨r, hr⟩ := h rfl
      exact ⟨_, takeReg_eq_ok.2 ⟨r, hr, List.length_eq_zero_iff.1 hlen, rfl⟩⟩
  · exact iff_of_true (exists_buildInstr hn hdr hlen) fun hcode => absurd (OpName.code_injective hcode) hn

end

/-- A header and its operand words are an instruction exactly where the header is legal (30_encoding R114). -/
theorem exists_decodePacket_iff {hdr : Word} {ops : List Word} (hlen : ops.length = operandCount (hdrOp hdr)) :
    (∃ i, decodePacket hdr ops = .ok i) ↔ ¬ IllegalHeader hdr := by
  cases hop : opOfCode (hdrOp hdr) with
  | none =>
    rw [decodePacket_none hop]
    exact iff_of_false nofun (not_not.2 (illegalHeader_of_unlisted hop))
  | some n =>
    rw [← code_of_opOfCode hop, operandCount_code] at hlen
    rw [not_illegalHeader_iff hop, ← exists_buildInstr_iff hlen, decodePacket_some hop]
    by_cases hres : hdrReserved hdr = 0
    · cases hunused : unusedFieldsZero n hdr <;> simp [hres]
    · rw [if_pos hres]
      exact iff_of_false nofun fun h => hres h.1

namespace Machine

/-! ## Packets on the stream -/

/-- Settles O8: from IDLE the header and its operand words, inside a packet the words that are missing. -/
theorem stepTakesOneWholePacket : Obligations.StepTakesOneWholePacket := by
  intro s hdr ops rest hready hlen
  refine ⟨fun hidle hhost => ?_, ?_⟩
  · rw [step, hhost, runHost_packet rest hready hidle hlen, List.length_cons, Nat.add_assoc, Nat.add_comm 1]
  · rintro got more rfl hmore hcollecting hhost
    rw [List.length_append] at hlen
    rw [step, hhost, runHost_complete hdr more got rest s hready hcollecting hmore hlen]

/-- A packet that does not decode raises IllegalCommand and has no other effect (60_exceptions R266, R268). -/
theorem execute_error {hdr : Word} {ops : List Word} {s : State} {e : DecodeError}
    (h : decodePacket hdr ops = .error e) (hrun : s.status.halted = false) (hlate : s.late = []) :
    execute hdr ops s = .next (Faulted s 5 (hdrOp hdr) (.illegalCommand (hdrOp hdr))) := by
  have hillegal : s.illegal hdr = Faulted s 5 (hdrOp hdr) (.illegalCommand (hdrOp hdr)) :=
    unlessHalted_running hrun _
  have hlate' : (s.illegal hdr).late = [] := by
    rw [hillegal]
    exact hlate
  simp only [execute, h]
  rw [settle_of_none_waiting hlate', hillegal]

/-- Settles O3: the step takes the packet, and its header decides whether it is an instruction. -/
theorem illegalHeaderRaisesIllegalCommand : Obligations.IllegalHeaderRaisesIllegalCommand := by
  refine ⟨fun s hdr ops rest hrun hidle hready hlate hlen hhost => ?_, fun op => operandCount_unlisted⟩
  have hstep := (stepTakesOneWholePacket s hdr ops rest hready hlen).1 hidle hhost
  refine ⟨fun hillegal => ?_, fun hlegal => ?_⟩
  · cases hpacket : decodePacket hdr ops with
    | ok i => exact absurd hillegal ((exists_decodePacket_iff hlen).1 ⟨i, hpacket⟩)
    | error e => exact hstep.trans (execute_error hpacket hrun hlate)
  · obtain ⟨i, hpacket⟩ := (exists_decodePacket_iff hlen).2 hlegal
    exact ⟨i, hpacket, hstep.trans (execute_ok hpacket hlate)⟩

end Machine
end Sys2Proof
end

section
/-! Whole numbers as binary64 values: their patterns, sums and roundings are exact (00_scope R14 to R16), and the
rectangle CLEARALL names with them (30_encoding R120, 41_compositor R182). -/
namespace Sys2Proof

open Sys2Proof.Claims

/-! ## Packing a representable magnitude -/

/-- Every magnitude of at most `p` significant bits has an exponent field and a fraction. -/
theorem exists_fieldMag {p m : Nat} (hp : 0 < p) (hm : Representable p m) :
    ∃ ex frac, frac < 2 ^ (p - 1) ∧ m = fieldMag p ex frac := by
  have hpow := Nat.two_pow_pred_mul_two hp
  by_cases hsmall : m < 2 ^ (p - 1)
  · exact ⟨0, m, hsmall, rfl⟩
  have hne : m ≠ 0 := by
    have := Nat.two_pow_pos (p - 1)
    omega
  have hlog : p - 1 ≤ m.log2 := (Nat.le_log2 hne).2 (by omega)
  have hlow : 2 ^ (p - 1) * 2 ^ (m.log2 + 1 - p) ≤ m := by
    rw [← Nat.pow_add, show p - 1 + (m.log2 + 1 - p) = m.log2 by omega]
    exact Nat.log2_self_le hne
  have hhigh : m < 2 ^ p * 2 ^ (m.log2 + 1 - p) := by
    rw [← Nat.pow_add, show p + (m.log2 + 1 - p) = m.log2 + 1 by omega]
    exact Nat.lt_log2_self
  rcases representable_multiple_or_lt hm (m.log2 + 1 - p) with ⟨k, hk⟩ | ⟨-, hlt⟩
  · generalize m.log2 + 1 - p = e at hlow hhigh hk
    subst hk
    have hklow := Nat.le_of_mul_le_mul_right hlow (Nat.two_pow_pos e)
    have hkhigh := Nat.lt_of_mul_lt_mul_right hhigh
    refine ⟨e + 1, k - 2 ^ (p - 1), by omega, ?_⟩
    rw [fieldMag, if_neg (Nat.succ_ne_zero e), Nat.add_sub_cancel' hklow, Nat.add_sub_cancel]
  · omega

/-- The exponent field of a magnitude below 2^n. -/
theorem exponent_lt {p ex frac n : Nat} (hpn : p ≤ n) (h : fieldMag p ex frac < 2 ^ n) : ex + p < n + 2 := by
  by_cases hex : ex = 0
  · omega
  rw [fieldMag, if_neg hex] at h
  have hlead : 2 ^ (p - 1 + (ex - 1)) < 2 ^ n :=
    calc 2 ^ (p - 1 + (ex - 1)) = 2 ^ (p - 1) * 2 ^ (ex - 1) := Nat.pow_add ..
      _ ≤ (2 ^ (p - 1) + frac) * 2 ^ (ex - 1) := Nat.mul_le_mul_right _ (Nat.le_add_right ..)
      _ < 2 ^ n := h
  have := (Nat.pow_lt_pow_iff_right (by decide)).1 hlead
  omega

theorem sign_append {a b : Nat} (neg : Bool) (ex : BitVec a) (frac : BitVec b) :
    (signBit neg ++ (ex ++ frac)).getLsbD (a + b) = neg := by
  rw [BitVec.getLsbD_append, if_neg (lt_irrefl _), Nat.sub_self]
  cases neg <;> rfl

/-- The value of a pattern that is put together from a sign, an exponent field and a fraction. -/
theorem ofBits_append (neg : Bool) (ex : BitVec 11) (frac : BitVec 52) (h : ex.toNat ≠ 2047) :
    F64.ofBits (signBit neg ++ (ex ++ frac)) = .fin neg (fieldMag 53 ex.toNat frac.toNat) := by
  have hex := extractExponent_append (signBit neg) ex frac
  have hfrac := extractFraction_append (signBit neg) ex frac
  have hsign : (signBit neg ++ (ex ++ frac)).getLsbD 63 = neg := sign_append neg ex frac
  rw [ofBits_finite _ (by rw [hex]; exact h), hex, hfrac, hsign]

/-- The pattern of a binary64 value that needs no rounding stands for it. -/
theorem ofBits_bits (ifNan : Word) (neg : Bool) {m : Nat} (hm : Representable 53 m) (hlt : m < beyond64) :
    F64.ofBits ((F64.fin neg m).bits ifNan) = .fin neg m := by
  obtain ⟨ex, frac, hfrac, rfl⟩ := exists_fieldMag (by decide) hm
  have hex := exponent_lt (by decide) hlt
  have hexNat : (BitVec.ofNat 11 ex).toNat = ex := (BitVec.toNat_ofNat ..).trans (Nat.mod_eq_of_lt (by omega))
  have hfracNat : (BitVec.ofNat 52 frac).toNat = frac := (BitVec.toNat_ofNat ..).trans (Nat.mod_eq_of_lt hfrac)
  have hbits := ofNat_fields (BitVec.ofNat 11 ex) (BitVec.ofNat 52 frac)
  have hvalue := ofBits_append neg (BitVec.ofNat 11 ex) (BitVec.ofNat 52 frac) (by omega)
  rw [← hbits, hexNat, hfracNat] at hvalue
  rw [F64.bits, magBits_fieldMag (by decide) hfrac]
  exact hvalue

/-! ## Whole numbers -/

section
variable {n : Nat}

theorem F64.ofNat_representable (h : n < 2 ^ 53) : Representable 53 (n * unit64) := ⟨n, 1074, h, by rw [unit64]⟩

theorem unit64_pos : 0 < unit64 := by
  rw [unit64]
  positivity

theorem F64.ofNat_lt_beyond64 (h : n < 2 ^ 53) : n * unit64 < beyond64 :=
  calc n * unit64 < 2 ^ 53 * unit64 := Nat.mul_lt_mul_of_pos_right h unit64_pos
    _ = 2 ^ (53 + 1074) := by rw [pow_add, unit64]
    _ ≤ 2 ^ 2098 := pow_le_pow_right₀ (by decide) (by decide)
    _ = beyond64 := by rw [beyond64]

theorem ofBits_natWord (h : n < 2 ^ 53) : F64.ofBits (Machine.natWord n) = F64.ofNat n :=
  ofBits_bits 0 false (F64.ofNat_representable h) (F64.ofNat_lt_beyond64 h)

theorem F64.round_ofNat (h : n < 2 ^ 53) : F64.round false (n * unit64) 1 = F64.ofNat n := by
  have hexact := roundPlaces_exact (den := 1) (by decide) (by decide) (F64.ofNat_representable h)
  rw [Nat.mul_one] at hexact
  simp only [F64.round, hexact]
  rw [if_neg (Nat.not_le.2 (F64.ofNat_lt_beyond64 h)), F64.ofNat]

theorem F64.ofNat_add {m : Nat} (h : m + n < 2 ^ 53) : (F64.ofNat m).add (F64.ofNat n) = F64.ofNat (m + n) := by
  have hsum : units false (m * unit64) + units false (n * unit64) = ((m + n) * unit64 : Nat) := by
    simp only [units, Bool.false_eq_true, if_false]
    push_cast
    ring
  have hadd : (F64.ofNat m).add (F64.ofNat n) =
      F64.ofUnits (false && false) (units false (m * unit64) + units false (n * unit64)) := rfl
  rw [hadd, hsum, F64.ofUnits]
  split
  · rename_i hzero
    rw [F64.ofNat, Int.natCast_eq_zero.1 hzero, Bool.and_false]
  · rw [decide_eq_false (by omega), Int.natAbs_natCast, F64.round_ofNat h]

theorem F64.floor_ofNat (n : Nat) : (F64.ofNat n).floor = some (.fin n) := by
  have hunit : (unit64 : Int) ≠ 0 := Int.natCast_ne_zero.2 unit64_pos.ne'
  simp only [F64.ofNat, F64.floor, units, Bool.false_eq_true, if_false]
  rw [Nat.cast_mul, Int.mul_ediv_cancel _ hunit]

theorem F64.ceil_ofNat (n : Nat) : (F64.ofNat n).ceil = some (.fin n) := by
  have hunit : (unit64 : Int) ≠ 0 := Int.natCast_ne_zero.2 unit64_pos.ne'
  simp only [F64.ofNat, F64.ceil, units, Bool.false_eq_true, if_false]
  rw [Nat.cast_mul, ← Int.neg_mul, Int.mul_ediv_cancel _ hunit, neg_neg]

theorem F64.ofNat_lt {m : Nat} : (F64.ofNat m).lt (F64.ofNat n) = decide (m < n) := by
  simp only [F64.lt, F64.ofNat, F64.place, EInt.lt, units, Bool.false_eq_true, if_false, decide_eq_decide]
  rw [Nat.cast_lt, Nat.mul_lt_mul_right unit64_pos]

end

namespace Machine

theorem clipSpan_whole {size : Nat} (h : 0 < size) : clipSpan size (.fin 0) (.fin size) = some (0, size) := by
  simp [clipSpan, EInt.max, EInt.min, EInt.lt, h]

/-- CLIP of the origin and the buffer's size is the whole buffer (41_compositor R182). -/
theorem clip_whole {p : Params} (hw : 0 < p.width) (hw' : p.width < 2 ^ 53) (hh : 0 < p.height)
    (hh' : p.height < 2 ^ 53) :
    clip p 0 0 (natWord p.width) (natWord p.height) = .rect { x0 := 0, y0 := 0, x1 := p.width, y1 := p.height } := by
  have horigin : F64.ofBits 0 = F64.ofNat 0 := by
    rw [F64.ofNat, Nat.zero_mul]
    rfl
  have hsum : ∀ {n : Nat}, n < 2 ^ 53 → (F64.ofNat 0).add (F64.ofNat n) = F64.ofNat n := by
    intro n hn
    rw [F64.ofNat_add (by omega), Nat.zero_add]
  have hnan : ∀ n, (F64.ofNat n).isNan = false := fun _ => rfl
  simp only [clip, horigin, ofBits_natWord hw', ofBits_natWord hh', hnan, hsum hw', hsum hh', F64.floor_ofNat,
    F64.ceil_ofNat, f0, F64.ofNat_lt, hw, hh, Nat.cast_zero, clipSpan_whole hw, clipSpan_whole hh]
  rfl

theorem assemble_clearall (p : Params) : assemble p "CLEARALL" false [] =
    some [.clearrect 0 0 (natWord p.width) (natWord p.height)] := rfl

/-- Settles O7: CLEARALL's operands are the origin and the buffer's width and height. -/
theorem clearAllNamesTheWholeBuffer : Obligations.ClearAllNamesTheWholeBuffer := by
  rintro p ⟨hw, hw', hh, hh', -⟩
  exact ⟨0, 0, natWord p.width, natWord p.height, assemble_clearall p, clip_whole hw (by omega) hh (by omega)⟩

end Machine
end Sys2Proof
end

section
/-! Symmetry and exact cases of binary64 arithmetic (00_scope R14): sums and products do not depend on the order of
their terms, and multiplying by 1 or by 2 does not round. -/
namespace Sys2Proof

open Sys2Proof.Claims

theorem F64.add_comm (x y : F64) : x.add y = y.add x := by
  cases x with
  | nan => cases y <;> rfl
  | inf s =>
    cases y with
    | nan => rfl
    | inf t => cases s <;> cases t <;> rfl
    | fin t n => rfl
  | fin s m =>
    cases y with
    | nan => rfl
    | inf t => rfl
    | fin t n => simp only [F64.add, Bool.and_comm, Int.add_comm]

theorem F64.mul_comm (x y : F64) : x.mul y = y.mul x := by
  cases x with
  | nan => cases y <;> rfl
  | inf s => cases y <;> simp only [F64.mul, Bool.xor_comm]
  | fin s m => cases y <;> simp only [F64.mul, Bool.xor_comm, Nat.mul_comm]

/-! ## Values that binary64 holds -/

/-- A finite value has a magnitude that a binary64 pattern can hold: 53 significant bits, below 2^1024. -/
def F64.IsBinary64 : F64 → Prop
  | .nan => True
  | .inf _ => True
  | .fin _ m => Representable 53 m ∧ m < beyond64

theorem ofBits_isBinary64 (w : Word) : (F64.ofBits w).IsBinary64 := by
  by_cases hex : (w.extractLsb' 52 11).toNat = 2047
  · rw [ofBits_special w hex]
    split <;> trivial
  · have htop : (w.extractLsb' 52 11).toNat < 2 ^ 11 := (w.extractLsb' 52 11).isLt
    have hfrac : (w.extractLsb' 0 52).toNat < 2 ^ (53 - 1) := (w.extractLsb' 0 52).isLt
    rw [ofBits_finite w hex]
    exact ⟨fieldMag_representable (by decide) hfrac, fieldMag_lt (by decide) hfrac (by omega)⟩

/-- Every binary32 value is a binary64 value (00_scope R15). -/
theorem widen_isBinary64 (e : Elem) : (F64.widen e).IsBinary64 := by
  by_cases hex : (e.extractLsb' 23 8).toNat = 255
  · rw [widen_special e hex]
    split <;> trivial
  · have htop : (e.extractLsb' 23 8).toNat < 2 ^ 8 := (e.extractLsb' 23 8).isLt
    have hfrac : (e.extractLsb' 0 23).toNat < 2 ^ (24 - 1) := (e.extractLsb' 0 23).isLt
    rw [widen_finite e hex]
    constructor
    · obtain ⟨k, p, hk, hmag⟩ := fieldMag_representable (ex := (e.extractLsb' 23 8).toNat) (by decide) hfrac
      exact ⟨k, p + 925, hk.trans (by decide), by rw [hmag, unit32, pow_add, Nat.mul_assoc]⟩
    · calc _ < 2 ^ 277 * unit32 :=
            Nat.mul_lt_mul_of_pos_right (fieldMag_lt (by decide) hfrac (by omega)) (by rw [unit32]; positivity)
        _ = 2 ^ (277 + 925) := by rw [pow_add, unit32]
        _ ≤ 2 ^ 2098 := pow_le_pow_right₀ (by decide) (by decide)
        _ = beyond64 := by rw [beyond64]

theorem F64.ofNat_isBinary64 {n : Nat} (h : n < 2 ^ 53) : (F64.ofNat n).IsBinary64 :=
  ⟨F64.ofNat_representable h, F64.ofNat_lt_beyond64 h⟩

theorem Claims.Representable.two_mul {p m : Nat} (h : Representable p m) : Representable p (2 * m) := by
  obtain ⟨k, e, hk, rfl⟩ := h
  exact ⟨k, e + 1, hk, by ring⟩

/-! ## Operations that do not round -/

/-- A quotient of at most 53 significant bits is only checked for overflow. -/
theorem F64.round_representable (neg : Bool) {m den : Nat} (hden : 0 < den) (hm : Representable 53 m) :
    F64.round neg (m * den) den = if beyond64 ≤ m then .inf neg else .fin neg m := by
  simp only [F64.round, roundPlaces_exact (by decide) hden hm]

theorem F64.mul_one {x : F64} (h : x.IsBinary64) : x.mul (F64.ofNat 1) = x := by
  cases x with
  | nan => rfl
  | inf s => simp [F64.mul, F64.ofNat, unit64_pos.ne']
  | fin s m =>
    obtain ⟨hm, hlt⟩ := h
    rw [F64.ofNat, Nat.one_mul, F64.mul, F64.round_representable _ unit64_pos hm, if_neg (Nat.not_le.2 hlt),
      Bool.xor_false]

/-- Where twice a value is finite the value is, and twice it is exact. -/
theorem F64.two_mul_of_finite {x : F64} (h : x.IsBinary64) (hfin : ((F64.ofNat 2).mul x).isFinite = true) :
    ∃ neg m, x = .fin neg m ∧ (F64.ofNat 2).mul x = .fin neg (2 * m) := by
  cases x with
  | nan => cases hfin
  | inf s => simp [F64.mul, F64.ofNat, unit64_pos.ne', F64.isFinite] at hfin
  | fin s m =>
    obtain ⟨hm, -⟩ := h
    have htwice : (F64.ofNat 2).mul (.fin s m) = if beyond64 ≤ 2 * m then .inf s else .fin s (2 * m) := by
      rw [F64.ofNat, F64.mul, Nat.mul_right_comm, F64.round_representable _ unit64_pos hm.two_mul, Bool.false_xor]
    refine ⟨s, m, rfl, ?_⟩
    rw [htwice] at hfin ⊢
    split at hfin
    · cases hfin
    · rename_i hlt
      exact if_neg hlt

/-- Doubling one factor or the other gives the same product where neither doubling overflows. -/
theorem F64.two_mul_mul_comm {x y : F64} (hx : x.IsBinary64) (hy : y.IsBinary64)
    (hx2 : ((F64.ofNat 2).mul x).isFinite = true) (hy2 : ((F64.ofNat 2).mul y).isFinite = true) :
    ((F64.ofNat 2).mul x).mul y = ((F64.ofNat 2).mul y).mul x := by
  obtain ⟨s, m, rfl, htwiceX⟩ := F64.two_mul_of_finite hx hx2
  obtain ⟨t, n, rfl, htwiceY⟩ := F64.two_mul_of_finite hy hy2
  rw [htwiceX, htwiceY, F64.mul, F64.mul, Bool.xor_comm, Nat.mul_right_comm, Nat.mul_right_comm 2 n m]

/-- A whole number that is not 0, divided by itself, is 1. -/
theorem F64.ofNat_div_self {n : Nat} (hn : 0 < n) : (F64.ofNat n).div (F64.ofNat n) = F64.ofNat 1 := by
  have hden : 0 < n * unit64 := Nat.mul_pos hn unit64_pos
  obtain ⟨hone, hlt⟩ := F64.ofNat_isBinary64 (n := 1) (by decide)
  rw [Nat.one_mul] at hone hlt
  rw [F64.ofNat, F64.div, if_neg hden.ne', Nat.mul_comm (n * unit64), F64.round_representable _ hden hone,
    if_neg (Nat.not_le.2 hlt), F64.ofNat, Nat.one_mul, Bool.xor_false]

end Sys2Proof
end

section
/-! A merge in mode destination into an opaque pixel (40_blend R150, 90_conflicts C2). -/
namespace Sys2Proof.Machine

/-- A merge that stores into every channel what stood there leaves the HDR memory. -/
theorem merge_hdr_of_stored_eq {s : State} (h : Memory.wf (memSize s.params) s.hdr) {p : Nat}
    (hp : p < s.params.width * s.params.height) {src : Quad F64}
    (hkept : ∀ c : Chan, s.stored (4 * p + c.index) ((mergeValues s p src).get c) = s.hdrRead (4 * p + c.index)) :
    (s.merge p src).hdr = s.hdr := by
  refine memory_ext (merge_wf h hp src) h fun i => ?_
  by_cases hi : ∃ c : Chan, i = 4 * p + c.index
  · obtain ⟨c, rfl⟩ := hi
    exact (merge_read_chan h.1 p src c).trans (hkept c)
  · exact merge_read_other s src (not_exists.1 hi)

/-- The value of an element that is no NaN is stored as the element itself. -/
theorem stored_hdrValue (s : State) {i : Nat} (h : F64.widen (s.hdrRead i) ≠ .nan) :
    s.stored i (s.hdrValue i) = s.hdrRead i :=
  narrow_widen (s.hdrRead i) _ h

theorem widen_opaque : F64.widen 0x437F0000 = F64.ofNat 255 := by decide +kernel

/-- Ad of an opaque pixel is 1 (40_blend R144). -/
theorem dstAlpha_opaque {s : State} {p : Nat} (h : s.hdrRead (4 * p + 3) = 0x437F0000) :
    dstAlpha s p = F64.ofNat 1 := by
  rw [dstAlpha, State.hdrValue, h, widen_opaque]
  exact F64.ofNat_div_self (by decide)

/-- In mode destination a merge into an opaque pixel computes the stored values: d * 1 for a colour, 1 * 255 for
alpha. -/
theorem mergeValues_destination_opaque {s : State} (hmode : s.mode = .destination) {p : Nat}
    (hopaque : s.hdrRead (4 * p + 3) = 0x437F0000) (src : Quad F64) (c : Chan) :
    (mergeValues s p src).get c = s.hdrValue (4 * p + c.index) := by
  have hcolour : ∀ i, (s.hdrValue i).mul (F64.ofNat 1) = s.hdrValue i := fun i => F64.mul_one (widen_isBinary64 _)
  have halpha : (F64.ofNat 1).mul f255 = s.hdrValue (4 * p + 3) := by
    rw [State.hdrValue, hopaque, widen_opaque, f255, F64.mul_comm, F64.mul_one (F64.ofNat_isBinary64 (by decide))]
  simp only [mergeValues, hmode, dstAlpha_opaque hopaque, comp, alpha, hcolour, halpha]
  cases c <;> rfl

/-- Settles O45: Ad is exactly 1, so every channel is stored as it was read. -/
theorem opaqueDestinationIsKept : Obligations.OpaqueDestinationIsKept := by
  intro s p src hinv hmode hp hopaque hr hg hb
  obtain ⟨hwf, -⟩ := hinv.memories
  refine merge_hdr_of_stored_eq hwf hp fun c => ?_
  rw [mergeValues_destination_opaque hmode hopaque]
  apply stored_hdrValue
  cases c with
  | r => exact hr
  | g => exact hg
  | b => exact hb
  | a =>
    show F64.widen (s.hdrRead (4 * p + 3)) ≠ .nan
    rw [hopaque, widen_opaque]
    exact nofun

end Sys2Proof.Machine
end

section
/-! The twenty component and alpha functions row by row, and the classes of modes with one alpha (40_blend R148 to
R169). -/
namespace Sys2Proof.Machine

theorem f0_eq_zero : f0 = .fin false 0 := by rw [f0, F64.ofNat, Nat.zero_mul]

/-- The ten modes whose alpha is SOA (40_blend R148, R169). -/
theorem alpha_eq_soa {m : BlendMode}
    (h : m ∈ [BlendMode.sourceOver, .destinationOver, .add, .subtract, .multiply, .average, .screen, .overlay,
      .hardLight, .softLight]) (as ad : F64) : alpha m as ad = soa as ad := by
  simp only [List.mem_cons, List.not_mem_nil, or_false] at h
  rcases h with rfl | rfl | rfl | rfl | rfl | rfl | rfl | rfl | rfl | rfl <;> rfl

theorem soa_comm (as ad : F64) : soa as ad = soa ad as := by
  rw [soa, soa, F64.add_comm, F64.mul_comm]

theorem alpha_xor_comm {x y : F64} (hx : x.IsBinary64) (hy : y.IsBinary64)
    (hx2 : ((F64.ofNat 2).mul x).isFinite = true) (hy2 : ((F64.ofNat 2).mul y).isFinite = true) :
    alpha .xor x y = alpha .xor y x := by
  simp only [alpha]
  rw [F64.add_comm, F64.two_mul_mul_comm hx hy hx2 hy2]

/-- Settles O48: the first two classes are symmetric as sums and products are, xor's because doubling is exact. -/
theorem alphaFunctionClasses : Obligations.AlphaFunctionClasses := by
  refine ⟨fun as ad => ⟨fun m hm => ⟨alpha_eq_soa hm as ad, ?_⟩, fun m hm => ?_, fun m hm => ?_, fun m hm => ?_,
    rfl, rfl, rfl, rfl, rfl⟩, fun a b => alpha_xor_comm (ofBits_isBinary64 a) (ofBits_isBinary64 b)⟩
  · rw [alpha_eq_soa hm, alpha_eq_soa hm, soa_comm]
  · rcases List.mem_pair.1 hm with rfl | rfl <;> exact ⟨rfl, F64.mul_comm as ad⟩
  · rcases List.mem_pair.1 hm with rfl | rfl <;> rfl
  · rcases List.mem_pair.1 hm with rfl | rfl <;> rfl

/-- Settles O46: each row of the model's MUX is the spec's row. -/
theorem porterDuffFormulas : Obligations.PorterDuffFormulas := fun _ _ _ _ _ =>
  ⟨⟨rfl, rfl⟩, ⟨rfl, rfl⟩, ⟨f0_eq_zero, f0_eq_zero⟩, ⟨rfl, rfl⟩, ⟨rfl, rfl⟩, ⟨rfl, rfl⟩, ⟨rfl, rfl⟩, ⟨rfl, rfl⟩,
    ⟨rfl, rfl⟩, ⟨rfl, rfl⟩, ⟨rfl, rfl⟩, ⟨rfl, rfl⟩⟩

/-- Settles O47: the eight modes are among those with the source-over alpha, and each row of the model's MUX, with the
bodies of the instance's family, is the spec's row. -/
theorem separableModeFormulas : Obligations.SeparableModeFormulas := by
  refine ⟨fun m hm => alpha_eq_soa (List.mem_cons_of_mem _ (List.mem_cons_of_mem _ hm)), fun s d as ad => ?_⟩
  exact ⟨fun _ => ⟨rfl, rfl, rfl, rfl, rfl⟩, fun _ => ⟨rfl, rfl, rfl⟩, rfl, rfl, rfl⟩

end Sys2Proof.Machine
end

section
/-! A header with a bit that its command does not use (30_encoding R107, R114). -/
namespace Sys2Proof.Machine

open Sys2Proof.Claims

/-- Where `mask` holds every bit a command's header can have beside its OP, a header with another bit is illegal. -/
theorem otherHeadersFault (n : OpName) (count : Nat) {mask : Word}
    (hmask : ∀ hdr, n.header hdr &&& ~~~mask = n.code.setWidth 64) : OtherHeadersFault n.code count mask := by
  intro s hdr ops hrun hlate hop hother _
  change hdrOp hdr = n.code at hop
  cases hpacket : decodePacket hdr ops with
  | ok i =>
    obtain ⟨m, hheader, -⟩ := decodePacket_eq_ok_iff.1 hpacket
    obtain ⟨hcode, -, -⟩ := (header_eq_iff m hdr).1 hheader
    obtain rfl := OpName.code_injective (hcode.trans hop)
    rw [← hheader] at hother
    exact absurd (hmask hdr) hother
  | error e =>
    rw [← hop]
    exact execute_error hpacket hrun hlate

theorem mkHeader_op_only (op : BitVec 8) : mkHeader op 0 0 0 0 = op.setWidth 64 := by
  revert op
  decide

/-- The header of a command that uses no field is its OP. -/
theorem header_mask_of_no_field {n : OpName} (hn : n.fields = {}) (hdr : Word) :
    n.header hdr &&& ~~~(0 : Word) = n.code.setWidth 64 := by
  have hmask : ~~~(0 : Word) = BitVec.allOnes 64 := by decide
  rw [hmask, BitVec.and_allOnes, OpName.header, hn]
  exact mkHeader_op_only n.code

end Sys2Proof.Machine
end

section
/-! PIXCOORD: the nearest pixel, ties towards +inf (41_compositor R181, 00_scope R16). -/
namespace Sys2Proof.Machine

open Sys2Proof.Claims

/-- `rnd` is the floor of v + 1/2, which is the one whole number that is nearest. -/
theorem nearest_iff_rnd {v : F64} {n : Nat} : Nearest v n ↔ v.rnd = some (n : Int) := by
  cases v with
  | nan => exact iff_of_false nofun nofun
  | inf neg => exact iff_of_false nofun nofun
  | fin neg m =>
    have hunit : (0 : Int) < 2 * unit64 := Int.mul_pos two_pos (Int.natCast_pos.2 unit64_pos)
    rw [F64.rnd, Option.some_inj, Int.ediv_eq_iff_of_pos hunit]
    constructor
    · rintro ⟨_, _, ⟨⟩, hlow, hhigh⟩
      constructor <;> linarith
    · rintro ⟨hlow, hhigh⟩
      exact ⟨neg, m, rfl, by linarith, by linarith⟩

/-- PIXCOORD answers the two rounded coordinates where both lie in the buffer (41_compositor R181). -/
theorem pixcoord_eq_some_iff {p : Params} {x y : Word} {a b : Nat} : pixcoord p x y = some (a, b) ↔
    (F64.ofBits x).rnd = some (a : Int) ∧ (F64.ofBits y).rnd = some (b : Int) ∧ a < p.width ∧ b < p.height := by
  unfold pixcoord
  split
  · next xr yr hx hy =>
    rw [hx, hy, Option.some_inj, Option.some_inj, Option.ite_none_left_eq_some, Option.some_inj, Prod.mk.injEq]
    omega
  · next hnone =>
    exact iff_of_false nofun fun ⟨hx, hy, _⟩ => hnone _ _ hx hy

theorem blendpx_running {s : State} (hrun : s.status.halted = false) (x y r g b a : Word) :
    exec (.blendpx x y r g b a) s = .next (s.withPixel 0x10 x y fun px py t =>
      t.blendPixel { r := F64.ofBits r, g := F64.ofBits g, b := F64.ofBits b, a := F64.ofBits a } px py) :=
  congrArg _ (unlessHalted_running hrun _)

theorem blendpxDa_running {s : State} (hrun : s.status.halted = false) (x y r g b a : Word) :
    exec (.blendpxDa x y r g b a) s = .next (s.withPixel 0x10 x y fun px py t =>
      t.blendPixel { r := F64.ofBits r, g := F64.ofBits g, b := F64.ofBits b, a := F64.ofNat 255 } px py) :=
  congrArg _ (unlessHalted_running hrun _)

theorem readpx_running {s : State} (hrun : s.status.halted = false) (x y : Word) :
    exec (.readpx x y) s = .next (s.withPixel 0x30 x y fun px py t => (t.respond (pixelWords t 0 px py)).tick) :=
  congrArg _ (unlessHalted_running hrun _)

theorem mappx_running {s : State} (hrun : s.status.halted = false) (x y : Word) :
    exec (.mappx x y) s = .next (s.withPixel 0x31 x y fun px py t => (t.respond (mapWords t px py)).tick) :=
  congrArg _ (unlessHalted_running hrun _)

/-- Settles O17: `rnd` names the nearest whole number, and where there is no pixel each command raises OutOfBounds. -/
theorem pixcoordNamesTheNearestPixel : Obligations.PixcoordNamesTheNearestPixel := by
  refine ⟨fun p x y a b => ?_, fun s x y r g b a hrun hnone => ?_⟩
  · rw [pixcoord_eq_some_iff, nearest_iff_rnd, nearest_iff_rnd]
  · rw [blendpx_running hrun, blendpxDa_running hrun, readpx_running hrun, mappx_running hrun]
    simp only [withPixel_none hnone]
    exact ⟨rfl, rfl, rfl, rfl⟩

end Sys2Proof.Machine
end

section
/-! CLIP: the rectangle of the pixels that a real rectangle meets (41_compositor R182, R183). A pixel column `n` is met
where it is not below the floor of the low end and is below the ceiling of the high end. -/
namespace Sys2Proof

theorem EInt.fin_lt (a b : Int) : (EInt.fin a).lt (.fin b) = decide (a < b) := rfl

theorem F64.fin_lt (s t : Bool) (m n : Nat) : (F64.fin s m).lt (.fin t n) = decide (units s m < units t n) := rfl

theorem units_false (n : Nat) : units false n = n := rfl

/-- A value is below the whole number n + 1 exactly where its floor is at most n. -/
theorem F64.lt_ofNat_succ_of_floor {x : F64} {lo : EInt} (h : x.floor = some lo) (n : Nat) :
    x.lt (F64.ofNat (n + 1)) = !(EInt.fin n).lt lo := by
  cases x with
  | nan => cases h
  | inf neg => cases neg <;> cases h <;> rfl
  | fin neg m =>
    cases h
    have hunit : (0 : Int) < unit64 := Int.natCast_pos.2 unit64_pos
    have hfloor : units neg m / unit64 < (n : Int) + 1 ↔ units neg m < ((n + 1 : Nat) : Int) * unit64 := by
      rw [Int.ediv_lt_iff_lt_mul hunit, Nat.cast_succ]
    rw [F64.ofNat, F64.fin_lt, units_false, EInt.fin_lt, ← decide_not, decide_eq_decide, not_lt,
      ← Int.lt_add_one_iff, hfloor, Nat.cast_mul]

/-- A value is above the whole number n exactly where its ceiling is. -/
theorem F64.ofNat_lt_of_ceil {x : F64} {hi : EInt} (h : x.ceil = some hi) (n : Nat) :
    (F64.ofNat n).lt x = (EInt.fin n).lt hi := by
  cases x with
  | nan => cases h
  | inf neg => cases neg <;> cases h <;> simp [F64.lt, F64.ofNat, F64.place, EInt.lt]
  | fin neg m =>
    cases h
    have hunit : (0 : Int) < unit64 := Int.natCast_pos.2 unit64_pos
    have hceil : (n : Int) < -(-units neg m / unit64) ↔ (n : Int) * unit64 < units neg m := by
      rw [lt_neg, Int.ediv_lt_iff_lt_mul hunit, Int.neg_mul, neg_lt_neg_iff]
    rw [F64.ofNat, F64.fin_lt, units_false, EInt.fin_lt, decide_eq_decide, hceil, Nat.cast_mul]

theorem F64.floor_eq_none_iff {x : F64} : x.floor = none ↔ x = .nan := by
  cases x with
  | nan => exact iff_of_true rfl rfl
  | inf neg => exact iff_of_false nofun nofun
  | fin neg m => exact iff_of_false nofun nofun

theorem F64.ceil_eq_none_iff {x : F64} : x.ceil = none ↔ x = .nan := by
  cases x with
  | nan => exact iff_of_true rfl rfl
  | inf neg => exact iff_of_false nofun nofun
  | fin neg m => exact iff_of_false nofun nofun

theorem F64.isNan_eq_true_iff {x : F64} : x.isNan = true ↔ x = .nan := by
  cases x <;> simp [F64.isNan]

namespace Machine

open Sys2Proof.Claims

/-- Place `n` of `size` places is met by the span from `lo` up to but not including `hi`. -/
def SpanMeets (size : Nat) (lo hi : EInt) (n : Nat) : Prop :=
  n < size ∧ (EInt.fin n).lt lo = false ∧ (EInt.fin n).lt hi = true

theorem lt_eq_false_iff_max_zero {lo : EInt} {n : Nat} :
    (EInt.fin n).lt lo = false ↔ ∃ a : Nat, (EInt.fin 0).max lo = .fin a ∧ a ≤ n := by
  cases lo with
  | negInf => exact iff_of_true rfl ⟨0, rfl, n.zero_le⟩
  | posInf => simp [EInt.max, EInt.lt]
  | fin k =>
    simp only [EInt.max, EInt.fin_lt, decide_eq_true_eq, decide_eq_false_iff_not]
    split
    · simp only [EInt.fin.injEq]
      exact ⟨fun h => ⟨k.toNat, by omega, by omega⟩, fun ⟨a, h, h'⟩ => by omega⟩
    · exact iff_of_true (by omega) ⟨0, rfl, n.zero_le⟩

theorem lt_iff_min_size {size : Nat} {hi : EInt} {n : Nat} :
    n < size ∧ (EInt.fin n).lt hi = true ↔ ∃ b : Nat, (EInt.fin size).min hi = .fin b ∧ n < b := by
  cases hi with
  | negInf => simp [EInt.min, EInt.lt]
  | posInf => simp [EInt.min, EInt.lt]
  | fin k =>
    simp only [EInt.min, EInt.fin_lt, decide_eq_true_eq]
    split
    · simp only [EInt.fin.injEq]
      exact ⟨fun ⟨_, h⟩ => ⟨k.toNat, by omega, by omega⟩, fun ⟨b, h, h'⟩ => by omega⟩
    · simp only [EInt.fin.injEq, Nat.cast_inj, exists_eq_left']
      omega

theorem max_zero_nonneg {lo : EInt} {a : Int} (h : (EInt.fin 0).max lo = .fin a) : 0 ≤ a := by
  by_contra hneg
  obtain ⟨k, hk⟩ := Int.eq_ofNat_of_zero_le (by omega : 0 ≤ -a)
  unfold EInt.max at h
  split at h
  · next hlt =>
    rw [h, EInt.lt, decide_eq_true_eq] at hlt
    omega
  · cases h
    omega

/-- A span is clipped to the buffer's places, where any are left (41_compositor R182). -/
theorem clipSpan_eq_some_iff {size : Nat} {lo hi : EInt} {a b : Nat} : clipSpan size lo hi = some (a, b) ↔
    (EInt.fin 0).max lo = .fin a ∧ (EInt.fin size).min hi = .fin b ∧ a < b := by
  unfold clipSpan
  split
  · next m n hm hn =>
    have := max_zero_nonneg hm
    rw [Option.ite_none_right_eq_some, Option.some_inj, Prod.mk.injEq, hm, hn, EInt.fin.injEq, EInt.fin.injEq]
    omega
  · next hnot => exact iff_of_false nofun fun ⟨ha, hb, _⟩ => hnot _ _ ha hb

/-- The places of a clipped span are exactly those met. -/
theorem spanMeets_iff {size : Nat} {lo hi : EInt} {n : Nat} :
    SpanMeets size lo hi n ↔ ∃ a b, clipSpan size lo hi = some (a, b) ∧ a ≤ n ∧ n < b := by
  simp only [SpanMeets, and_left_comm (a := n < size), lt_eq_false_iff_max_zero, lt_iff_min_size, clipSpan_eq_some_iff]
  exact ⟨fun ⟨⟨a, ha, han⟩, b, hb, hnb⟩ => ⟨a, b, ⟨ha, hb, han.trans_lt hnb⟩, han, hnb⟩,
    fun ⟨a, b, ⟨ha, hb, _⟩, han, hnb⟩ => ⟨⟨a, ha, han⟩, b, hb, hnb⟩⟩

theorem spanMeets_of_some {size : Nat} {lo hi : EInt} {a b : Nat} (h : clipSpan size lo hi = some (a, b)) (n : Nat) :
    SpanMeets size lo hi n ↔ a ≤ n ∧ n < b := by
  simp [spanMeets_iff, h]

/-- A pixel is met exactly where its column and its row are, in a rectangle that is not EMPTY by its size. -/
theorem meets_iff {p : Params} {x y w h : Word} {lox hix loy hiy : EInt}
    (hw : f0.lt (F64.ofBits w) = true) (hh : f0.lt (F64.ofBits h) = true)
    (hlox : (F64.ofBits x).floor = some lox) (hhix : ((F64.ofBits x).add (F64.ofBits w)).ceil = some hix)
    (hloy : (F64.ofBits y).floor = some loy) (hhiy : ((F64.ofBits y).add (F64.ofBits h)).ceil = some hiy)
    (px py : Nat) :
    Meets p x y w h px py ↔ SpanMeets p.width lox hix px ∧ SpanMeets p.height loy hiy py := by
  simp only [Meets, SpanMeets, hw, hh, F64.lt_ofNat_succ_of_floor hlox, F64.ofNat_lt_of_ceil hhix,
    F64.lt_ofNat_succ_of_floor hloy, F64.ofNat_lt_of_ceil hhiy, Bool.not_eq_true']
  tauto

/-- With numbers for operands, the rule's NaN tests are those of the two sums (41_compositor R182). -/
theorem nanRect_iff {x y w h : Word} (hnum : ((F64.ofBits x).isNan || (F64.ofBits y).isNan || (F64.ofBits w).isNan ||
      (F64.ofBits h).isNan) = false) :
    NanRect x y w h ↔ f0.lt (F64.ofBits w) = true ∧ f0.lt (F64.ofBits h) = true ∧
      ((F64.ofBits x).add (F64.ofBits w) = .nan ∨ (F64.ofBits y).add (F64.ofBits h) = .nan) := by
  rw [NanRect, or_iff_right]
  simpa [F64.isNan_eq_true_iff, and_assoc] using Bool.eq_false_iff.1 hnum

/-- With numbers for operands, only a sum that is NaN leaves one of the rectangle's ends without a floor or a ceiling. -/
theorem sum_nan_of_no_ends {x y w h : Word} (hx : F64.ofBits x ≠ .nan) (hy : F64.ofBits y ≠ .nan)
    (hends : ∀ lox hix loy hiy, (F64.ofBits x).floor = some lox →
      ((F64.ofBits x).add (F64.ofBits w)).ceil = some hix → (F64.ofBits y).floor = some loy →
      ((F64.ofBits y).add (F64.ofBits h)).ceil = some hiy → False) :
    (F64.ofBits x).add (F64.ofBits w) = .nan ∨ (F64.ofBits y).add (F64.ofBits h) = .nan := by
  rw [ne_eq, ← F64.floor_eq_none_iff] at hx hy
  rw [← F64.ceil_eq_none_iff, ← F64.ceil_eq_none_iff]
  by_contra hboth
  obtain ⟨hsumx, hsumy⟩ := not_or.1 hboth
  obtain ⟨lox, hlox⟩ := Option.ne_none_iff_exists'.1 hx
  obtain ⟨loy, hloy⟩ := Option.ne_none_iff_exists'.1 hy
  obtain ⟨hix, hhix⟩ := Option.ne_none_iff_exists'.1 hsumx
  obtain ⟨hiy, hhiy⟩ := Option.ne_none_iff_exists'.1 hsumy
  exact hends lox hix loy hiy hlox hhix hloy hhiy

/-- Settles O18: test by test of CLIP; in the end the two spans are the columns and the rows met. -/
theorem clipIsTheSetOfPixelsMet : Obligations.ClipIsTheSetOfPixelsMet := by
  intro p x y w h
  generalize hc : clip p x y w h = c
  simp only [clip] at hc
  split at hc
  · next hnan =>
    subst hc
    left
    simpa [F64.isNan_eq_true_iff, or_assoc] using hnan
  rename_i hnum
  have hnanRect := nanRect_iff (Bool.eq_false_iff.2 hnum)
  split at hc
  · next hflat =>
    subst hc
    have hsize : ¬ (f0.lt (F64.ofBits w) = true ∧ f0.lt (F64.ofBits h) = true) := by
      rintro ⟨hw, hh⟩
      simp [hw, hh] at hflat
    exact ⟨fun hbad => hsize (by tauto), fun px py ⟨hw, hh, _⟩ => hsize ⟨hw, hh⟩⟩
  rename_i hsize
  obtain ⟨hw, hh⟩ : f0.lt (F64.ofBits w) = true ∧ f0.lt (F64.ofBits h) = true := by simpa using hsize
  split at hc
  · next lox hix loy hiy hlox hhix hloy hhiy =>
    have hmeets := meets_iff (p := p) hw hh hlox hhix hloy hhiy
    have hnot : ¬ NanRect x y w h := by
      rw [hnanRect, ← F64.ceil_eq_none_iff, ← F64.ceil_eq_none_iff, hhix, hhiy]
      simp
    split at hc
    · next x0 x1 y0 y1 hx hy =>
      subst hc
      obtain ⟨hx01, -⟩ := clipSpan_bounds hx
      obtain ⟨hy01, -⟩ := clipSpan_bounds hy
      refine ⟨hnot, hx01, hy01, fun px py => ?_⟩
      rw [hmeets, spanMeets_of_some hx, spanMeets_of_some hy, covers_iff, and_assoc]
    · next hnone =>
      subst hc
      refine ⟨hnot, fun px py hmet => ?_⟩
      obtain ⟨hpx, hpy⟩ := (hmeets px py).1 hmet
      obtain ⟨x0, x1, hx, -⟩ := spanMeets_iff.1 hpx
      obtain ⟨y0, y1, hy, -⟩ := spanMeets_iff.1 hpy
      exact hnone x0 x1 y0 y1 hx hy
  · next hends =>
    subst hc
    simp only [Bool.or_eq_true, F64.isNan_eq_true_iff, not_or] at hnum
    obtain ⟨⟨⟨hx, hy⟩, -⟩, -⟩ := hnum
    exact hnanRect.2 ⟨hw, hh, sum_nan_of_no_ends hx hy hends⟩

end Machine
end Sys2Proof
end

section
/-! A memory in which a list of pixels was repainted: what each loop over pixels leaves, in whatever order it visits them
(41_compositor R184, R185; 42_tonemap R215). -/
namespace Sys2Proof.Machine

variable {n : Nat} {p : Params} {old : Nat → BitVec n} {val : Nat × Nat → Chan → BitVec n} {l : List (Nat × Nat)}
  {m : List (Nat × BitVec n)}

/-- `m` is in its form, holds `val` in the places of the pixels of `l`, and reads as `old` in every other place. -/
structure Repainted (p : Params) (old : Nat → BitVec n) (val : Nat × Nat → Chan → BitVec n) (l : List (Nat × Nat))
    (m : List (Nat × BitVec n)) : Prop where
  form : Memory.wf (memSize p) m
  inside : ∀ q ∈ l, ∀ c, cellRead m (idx p q.1 q.2 c) = val q c
  outside : ∀ i, (∀ q ∈ l, ∀ c, i ≠ idx p q.1 q.2 c) → cellRead m i = old i

/-- Which pixels were repainted, and with what, decides the memory. -/
theorem Repainted.unique {l' : List (Nat × Nat)} {m' : List (Nat × BitVec n)} (h : Repainted p old val l m)
    (h' : Repainted p old val l' m') (hl : ∀ q, q ∈ l ↔ q ∈ l') : m = m' := by
  refine memory_ext h.form h'.form fun i => ?_
  by_cases hi : ∃ q ∈ l, ∃ c, i = idx p q.1 q.2 c
  · obtain ⟨q, hq, c, rfl⟩ := hi
    rw [h.inside q hq, h'.inside q ((hl q).1 hq)]
  · push Not at hi
    rw [h.outside i hi, h'.outside i fun q hq => hi q ((hl q).2 hq)]

/-- Every pixel of the list lies in the buffer, and none comes twice (41_compositor R184). -/
structure PixelsOnce (p : Params) (l : List (Nat × Nat)) : Prop where
  nodup : l.Nodup
  inBuffer : ∀ q ∈ l, q.1 < p.width ∧ q.2 < p.height

theorem Rect.inBuffer.pixelsOnce {r : Rect} (h : r.inBuffer p) : PixelsOnce p r.pixels := ⟨pixels_nodup r, h⟩

theorem PixelsOnce.perm {l' : List (Nat × Nat)} (h : PixelsOnce p l) (hl : l.Perm l') : PixelsOnce p l' :=
  ⟨hl.nodup_iff.1 h.nodup, fun q hq => h.inBuffer q (hl.mem_iff.2 hq)⟩

section
variable {s : State}

theorem mergeAll_repainted (hs : Memory.wf (memSize s.params) s.hdr) (src : Nat × Nat → Quad F64)
    (hl : PixelsOnce s.params l) :
    Repainted s.params s.hdrRead
      (fun q c => s.stored (idx s.params q.1 q.2 c) ((mergeValues s (pixelNumber s.params q.1 q.2) (src q)).get c)) l
      (s.mergeAll src l).hdr where
  form := mergeAll_wf hs src hl.inBuffer
  inside _ hq c := mergeAll_read_chan hs.1 src hl.nodup (fun q hq => (hl.inBuffer q hq).1) hq c
  outside _ hi := mergeAll_read_other s src hi

theorem clearAll_repainted (hs : Memory.wf (memSize s.params) s.hdr) (hl : PixelsOnce s.params l) :
    Repainted s.params s.hdrRead (fun _ _ => 0) l (s.clearAll l).hdr where
  form := clearAll_wf hs hl.inBuffer
  inside _ hq c := clearAll_read_chan hs.1 hl.nodup (fun q hq => (hl.inBuffer q hq).1) hq c
  outside _ hi := clearAll_read_other s hi

theorem toneAll_repainted (hs : Memory.wf (memSize s.params) s.surf) (hl : PixelsOnce s.params l) :
    Repainted s.params s.surfRead (fun q c => toneByte s q.1 q.2 c) l (s.toneAll l).surf where
  form := toneAll_wf hs hl.inBuffer
  inside _ hq c := toneAll_read_chan hs.1 hl.nodup (fun q hq => (hl.inBuffer q hq).1) hq c
  outside _ hi := toneAll_read_other s hi

end

theorem eq_of_hdr_eq {s t t' : State} (ht : ∃ m, t = { s with hdr := m }) (ht' : ∃ m, t' = { s with hdr := m })
    (h : t.hdr = t'.hdr) : t = t' := by
  obtain ⟨m, rfl⟩ := ht
  obtain ⟨m', rfl⟩ := ht'
  rw [show m = m' from h]

theorem eq_of_surf_eq {s t t' : State} (ht : ∃ m, t = { s with surf := m }) (ht' : ∃ m, t' = { s with surf := m })
    (h : t.surf = t'.surf) : t = t' := by
  obtain ⟨m, rfl⟩ := ht
  obtain ⟨m', rfl⟩ := ht'
  rw [show m = m' from h]

/-- Settles O41: two orders of the same pixels repaint the same pixels with the same values. -/
theorem pixelOrderDoesNotShow : Obligations.PixelOrderDoesNotShow := by
  intro s src l l' hinv hperm hnodup hbuffer
  obtain ⟨hhdr, hsurf, -⟩ := hinv.memories
  have hl : PixelsOnce s.params l := ⟨hnodup, hbuffer⟩
  have hl' := hl.perm hperm
  have hmem : ∀ q, q ∈ l ↔ q ∈ l' := fun _ => hperm.mem_iff
  refine ⟨?_, ?_, ?_⟩
  · exact eq_of_hdr_eq (mergeAll_hdr_only s src l) (mergeAll_hdr_only s src l')
      ((mergeAll_repainted hhdr src hl).unique (mergeAll_repainted hhdr src hl') hmem)
  · exact eq_of_hdr_eq (clearAll_hdr_only s l) (clearAll_hdr_only s l')
      ((clearAll_repainted hhdr hl).unique (clearAll_repainted hhdr hl') hmem)
  · exact eq_of_surf_eq (toneAll_surf_only s l) (toneAll_surf_only s l')
      ((toneAll_repainted hsurf hl).unique (toneAll_repainted hsurf hl') hmem)

end Sys2Proof.Machine
end

section
/-! The commands that rewrite the pixels of a rectangle and tone-map them (41_compositor R186 to R192). -/
namespace Sys2Proof.Machine

open Sys2Proof.Claims

/-! ## What is stored and answered (00_scope R10, R15) -/

/-- A value is stored as its nearest binary32 pattern, a NaN as the draw, which is a NaN. -/
theorem stores_stored (s : State) (i : Nat) (v : F64) : Stores v (s.stored i v) := by
  cases v with
  | nan => exact (drawsAreExactlyTheNans.2 _).2 ⟨_, rfl⟩
  | inf neg => rfl
  | fin neg m => rfl

/-- A value is answered as its pattern, a NaN as the draw, which is a NaN. -/
theorem answers_answer (s : State) (k : Nat) (v : F64) : Answers v (s.answer k v) := by
  cases v with
  | nan => exact (drawsAreExactlyTheNans.1 _).2 ⟨_, rfl⟩
  | inf neg => rfl
  | fin neg m => rfl

theorem mergeValues_get (s : State) (p : Nat) (src : Quad F64) (c : Chan) :
    (mergeValues s p src).get c = MergeValue s p src c := by
  cases c <;> rfl

/-! ## The effect on a rectangle -/

section
variable {s t : State} {r : Rect} {ok : Nat → Nat → Chan → Elem → Prop}

theorem rectEffect_tick (h : RectEffect s t r ok) : RectEffect s t.tick r ok := by
  obtain ⟨hdr, surf, draws, rfl, hpixels⟩ := h
  exact ⟨hdr, surf, draws + 1, rfl, hpixels⟩

theorem rectEffect_imp {ok' : Nat → Nat → Chan → Elem → Prop} (h : RectEffect s t r ok)
    (hok : ∀ px py c e, ok px py c e → ok' px py c e) : RectEffect s t r ok' := by
  obtain ⟨hdr, surf, draws, ht, hinside, houtside⟩ := h
  refine ⟨hdr, surf, draws, ht, fun px py c hcov => ?_, houtside⟩
  obtain ⟨helement, hbyte⟩ := hinside px py c hcov
  exact ⟨hok _ _ _ _ helement, hbyte⟩

/-- A repainted HDR memory, tone-mapped (41_compositor R186). -/
theorem toneRect_rectEffect (hsurf : Memory.wf (memSize s.params) s.surf) (hr : r.inBuffer s.params)
    {val : Nat × Nat → Chan → Elem} (ht : ∃ m, t = { s with hdr := m })
    (hpaint : Repainted s.params s.hdrRead val r.pixels t.hdr) :
    RectEffect s (t.toneRect r) r fun px py c e => e = val (px, py) c := by
  obtain ⟨hdr, rfl⟩ := ht
  have htone := toneAll_repainted (s := { s with hdr := hdr }) hsurf hr.pixelsOnce
  obtain ⟨surf, hsurfOnly⟩ := toneAll_surf_only { s with hdr := hdr } r.pixels
  rw [hsurfOnly] at htone
  refine ⟨hdr, surf, s.draws, by rw [State.toneRect, hsurfOnly]; rfl, fun px py c hcov => ?_, fun i hi => ?_⟩
  · have hq : (px, py) ∈ r.pixels := mem_pixels.2 hcov
    exact ⟨hpaint.inside _ hq c, htone.inside _ hq c⟩
  · have hnot : ∀ q ∈ r.pixels, ∀ c, i ≠ idx s.params q.1 q.2 c := fun q hq c => hi q.1 q.2 c (mem_pixels.1 hq)
    exact ⟨hpaint.outside i hnot, htone.outside i hnot⟩

variable (hinv : s.Inv) (hr : r.inBuffer s.params)
include hinv hr

/-- The merges of a rectangle's pixels, tone-mapped (41_compositor R189, R191). -/
theorem blendRect_rectEffect (src : Nat × Nat → Quad F64) :
    RectEffect s (s.blendRect src r) r fun px py c e =>
      Stores (MergeValue s (pixelNumber s.params px py) (src (px, py)) c) e := by
  obtain ⟨hhdr, hsurf, -⟩ := hinv.memories
  refine rectEffect_tick (rectEffect_imp (toneRect_rectEffect hsurf hr (mergeAll_hdr_only s src r.pixels)
    (mergeAll_repainted hhdr src hr.pixelsOnce)) ?_)
  rintro px py c _ rfl
  rw [mergeValues_get]
  exact stores_stored _ _ _

/-- A rectangle's pixels cleared, and tone-mapped (41_compositor R190). -/
theorem clearRect_rectEffect :
    RectEffect s ((s.clearAll r.pixels).toneRect r) r fun _ _ _ e => e = 0x00000000 := by
  obtain ⟨hhdr, hsurf, -⟩ := hinv.memories
  exact toneRect_rectEffect hsurf hr (clearAll_hdr_only s r.pixels) (clearAll_repainted hhdr hr.pixelsOnce)

/-- A rectangle's pixels tone-mapped as they are (42_tonemap R215). -/
theorem toneRect_alone_rectEffect :
    RectEffect s (s.toneRect r) r fun px py c e => e = s.hdrRead (idx s.params px py c) := by
  obtain ⟨hhdr, hsurf, -⟩ := hinv.memories
  exact toneRect_rectEffect hsurf hr ⟨s.hdr, rfl⟩ (val := fun q c => s.hdrRead (idx s.params q.1 q.2 c))
    ⟨hhdr, fun _ _ _ => rfl, fun _ _ => rfl⟩

end

/-- BLENDPX merges the one pixel of its rectangle (41_compositor R187). -/
theorem blendPixel_eq_blendRect (s : State) (src : Quad F64) (x y : Nat) :
    s.blendPixel src x y = s.blendRect (fun _ => src) (pixelRect x y) := by
  have hpixels : (pixelRect x y).pixels = [(x, y)] := by simp [pixelRect, Rect.pixels]
  rw [State.blendRect, hpixels]
  rfl

theorem blendPixel_rectEffect {s : State} (hinv : s.Inv) (src : Quad F64) {x y : Nat} (hx : x < s.params.width)
    (hy : y < s.params.height) : RectEffect s (s.blendPixel src x y) (pixelRect x y) fun px py c e =>
      Stores (MergeValue s (pixelNumber s.params px py) src c) e := by
  rw [blendPixel_eq_blendRect]
  exact blendRect_rectEffect hinv (pixelRect_inBuffer hx hy) fun _ => src

/-! ## The commands -/

theorem fillrect_running {s : State} (hrun : s.status.halted = false) (x y w h : Word) :
    exec (.fillrect x y w h) s =
      .next (s.withClip 0x11 x y w h id fun r t => t.blendRect (fun _ => t.fill.map F64.ofBits) r) :=
  congrArg _ (unlessHalted_running hrun _)

theorem clearrect_running {s : State} (hrun : s.status.halted = false) (x y w h : Word) :
    exec (.clearrect x y w h) s =
      .next (s.withClip 0x12 x y w h id fun r t => (t.clearAll r.pixels).toneRect r) :=
  congrArg _ (unlessHalted_running hrun _)

theorem drawimg_running {s : State} (hrun : s.status.halted = false) (x y w h : Word) :
    exec (.drawimg x y w h) s = .next (s.withClip 0x13 x y w h id fun r t => t.blendRect (surfPixel t) r) :=
  congrArg _ (unlessHalted_running hrun _)

/-- A command that clips its operands and has its effect on every rectangle in the buffer (41_compositor R182). -/
theorem rectCommand_of_rectEffect {s : State} {i : Instr} {op : BitVec 8} {x y w h : Word} {f : Rect → State → State}
    {ok : Nat → Nat → Chan → Elem → Prop} (hexec : exec i s = .next (s.withClip op x y w h id f))
    (heffect : ∀ r : Rect, r.inBuffer s.params → RectEffect s (f r s) r ok) : RectCommand s i op x y w h ok := by
  unfold RectCommand
  rw [hexec]
  split
  · next hbad => rw [withClip_bad hbad]; rfl
  · next hempty => rw [withClip_empty hempty]; rfl
  · next r hrect => exact ⟨_, by rw [withClip_rect hrect], heffect r (clip_inBuffer hrect)⟩

section
variable {s : State} (hinv : s.Inv) (hrun : s.status.halted = false) (x y w h : Word)
include hinv hrun

theorem fillrect_rectCommand : RectCommand s (.fillrect x y w h) 0x11 x y w h fun px py c e =>
    Stores (MergeValue s (pixelNumber s.params px py) (s.fill.map F64.ofBits) c) e :=
  rectCommand_of_rectEffect (fillrect_running hrun x y w h) fun _ hr => blendRect_rectEffect hinv hr _

theorem clearrect_rectCommand : RectCommand s (.clearrect x y w h) 0x12 x y w h fun _ _ _ e => e = 0x00000000 :=
  rectCommand_of_rectEffect (clearrect_running hrun x y w h) fun _ hr => clearRect_rectEffect hinv hr

theorem drawimg_rectCommand : RectCommand s (.drawimg x y w h) 0x13 x y w h fun px py c e =>
    Stores (MergeValue s (pixelNumber s.params px py) (surfPixel s (px, py)) c) e :=
  rectCommand_of_rectEffect (drawimg_running hrun x y w h) fun _ hr => blendRect_rectEffect hinv hr _

end

/-- BLENDPX can have its DA bit set, and nothing else beside its OP (41_compositor R188). -/
theorem blendpx_header_mask (hdr : Word) :
    OpName.blendpx.header hdr &&& ~~~(0x8000 : Word) = OpName.blendpx.code.setWidth 64 := by
  show mkHeader 0x10 0 0 (hdrDa hdr) 0 &&& ~~~(0x8000 : Word) = 0x10
  rcases hdrDa_cases hdr with h | h <;> rw [h] <;> decide

/-- Settles O35: BLENDPX rewrites the rectangle of its one pixel. -/
theorem blendpxMergesOnePixel : Obligations.BlendpxMergesOnePixel := by
  refine ⟨fun s x y r g b a hinv hrun => ?_, fun _ _ _ _ _ _ => ⟨rfl, rfl⟩,
    otherHeadersFault .blendpx 6 blendpx_header_mask⟩
  rw [blendpx_running hrun, blendpxDa_running hrun]
  refine ⟨fun px py hpix => ?_, fun hnone => ?_⟩
  · obtain ⟨hx, hy⟩ := pixcoord_bounds hpix
    rw [withPixel_some hpix, withPixel_some hpix]
    exact ⟨⟨_, rfl, blendPixel_rectEffect hinv _ hx hy⟩, ⟨_, rfl, blendPixel_rectEffect hinv _ hx hy⟩⟩
  · rw [withPixel_none hnone, withPixel_none hnone]
    exact ⟨rfl, rfl⟩

/-- Settles O36: FILLRECT merges the fill colour into every pixel of the rectangle it clips. -/
theorem fillrectMergesEveryPixel : Obligations.FillrectMergesEveryPixel :=
  ⟨fun _ x y w h hinv hrun => fillrect_rectCommand hinv hrun x y w h, fun _ _ _ _ => rfl,
    otherHeadersFault .fillrect 4 (header_mask_of_no_field rfl)⟩

/-- Settles O37: DRAWIMG merges the bytes that stand at each pixel before the command. -/
theorem drawimgMergesTheSurfacePixels : Obligations.DrawimgMergesTheSurfacePixels :=
  ⟨fun _ x y w h hinv hrun => drawimg_rectCommand hinv hrun x y w h, fun _ _ _ _ => rfl,
    otherHeadersFault .drawimg 4 (header_mask_of_no_field rfl)⟩

/-- Settles O38: CLEARRECT stores +0.0 in every pixel of the rectangle it clips. -/
theorem clearrectZeroesTheRectangle : Obligations.ClearrectZeroesTheRectangle :=
  ⟨fun _ x y w h hinv hrun => clearrect_rectCommand hinv hrun x y w h, fun _ _ _ _ => rfl,
    otherHeadersFault .clearrect 4 (header_mask_of_no_field rfl)⟩

end Sys2Proof.Machine
end

section
/-! What lies outside the rectangle a command touches (41_compositor R185, R186; 20_memory R72, R77). -/
namespace Sys2Proof.Machine

open Sys2Proof.Claims

/-- Both memories read as before at every index that belongs to no pixel of the rectangle, if there is one. -/
def KeepsOutside (s t : State) (touched : Option Rect) : Prop :=
  ∀ k, (∀ r, touched = some r → r.coversIndex s.params k = false) →
    t.hdrRead k = s.hdrRead k ∧ t.surfRead k = s.surfRead k

theorem keepsOutside_of_memories_eq {s t : State} (hhdr : t.hdr = s.hdr) (hsurf : t.surf = s.surf)
    (touched : Option Rect) : KeepsOutside s t touched := by
  intro k _
  rw [State.hdrRead, State.surfRead, hhdr, hsurf]
  exact ⟨rfl, rfl⟩

/-- An index belongs to a rectangle exactly where its pixel does (20_memory R70). -/
theorem coversIndex_idx {p : Params} {x : Nat} (hx : x < p.width) (r : Rect) (y : Nat) (c : Chan) :
    r.coversIndex p (idx p x y c) = r.covers x y := by
  have hpixel : idx p x y c / 4 = x + p.width * y := by
    have hc := chan_index_lt c
    rw [idx_eq, pixelNumber, Nat.mul_comm y, Nat.add_comm x]
    omega
  rw [Rect.coversIndex, hpixel, Nat.add_mul_mod_self_left, Nat.mod_eq_of_lt hx,
    Nat.add_mul_div_left _ _ (by omega), Nat.div_eq_of_lt hx, Nat.zero_add]

section
variable {s : State} {op : BitVec 8} {x y w h : Word} {touched : Option Rect}

/-- A command's effect on a rectangle stays in it. -/
theorem keepsOutside_of_rectEffect {t : State} {r : Rect} {ok : Nat → Nat → Chan → Elem → Prop}
    (hr : r.inBuffer s.params) (heffect : RectEffect s t r ok) : KeepsOutside s t (some r) := by
  obtain ⟨hdr, surf, draws, rfl, -, houtside⟩ := heffect
  intro k hk
  refine houtside k fun px py c hcov he => ?_
  obtain ⟨hx, -⟩ := hr (px, py) (mem_pixels.2 hcov)
  have hnot := hk r rfl
  rw [he, coversIndex_idx hx, hcov] at hnot
  cases hnot

/-- A halted HBK touches nothing (60_exceptions R270). -/
theorem unlessHalted_keepsOutside {f : State → State}
    (hf : s.status.halted = false → KeepsOutside s (f s) touched) :
    KeepsOutside s (s.unlessHalted f) (if s.status.halted then none else touched) := by
  cases hhalt : s.status.halted with
  | true =>
    rw [unlessHalted_halted hhalt]
    exact keepsOutside_of_memories_eq rfl rfl _
  | false =>
    rw [unlessHalted_running hhalt]
    exact hf hhalt

theorem withPixel_keepsOutside {f : Nat → Nat → State → State}
    (hf : ∀ px py, pixcoord s.params x y = some (px, py) → KeepsOutside s (f px py s) touched) :
    KeepsOutside s (s.withPixel op x y f) touched := by
  rcases withPixel_cases s op x y f with hbad | ⟨px, py, hpix, hgood⟩
  · rw [hbad]
    exact keepsOutside_of_memories_eq rfl rfl _
  · rw [hgood]
    exact hf px py hpix

theorem withClip_keepsOutside {e : State → State} {f : Rect → State → State} (he : KeepsOutside s (e s) touched)
    (hf : ∀ r, clip s.params x y w h = .rect r → KeepsOutside s (f r s) touched) :
    KeepsOutside s (s.withClip op x y w h e f) touched := by
  rcases withClip_cases s op x y w h e f with hbad | hempty | ⟨r, hclip, hrect⟩
  · rw [hbad]
    exact keepsOutside_of_memories_eq rfl rfl _
  · rw [hempty]
    exact he
  · rw [hrect]
    exact hf r hclip

theorem withPixel_blend_keepsOutside (hinv : s.Inv) (src : Quad F64) :
    KeepsOutside s (s.withPixel op x y fun px py t => t.blendPixel src px py)
      ((pixcoord s.params x y).map fun q => pixelRect q.1 q.2) := by
  refine withPixel_keepsOutside fun px py hpix => ?_
  obtain ⟨hx, hy⟩ := pixcoord_bounds hpix
  rw [hpix]
  exact keepsOutside_of_rectEffect (pixelRect_inBuffer hx hy) (blendPixel_rectEffect hinv src hx hy)

theorem withClip_rectEffect_keepsOutside {f : Rect → State → State} {ok : Nat → Nat → Chan → Elem → Prop}
    (heffect : ∀ r : Rect, r.inBuffer s.params → RectEffect s (f r s) r ok) :
    KeepsOutside s (s.withClip op x y w h id f) (clip s.params x y w h).rect? := by
  refine withClip_keepsOutside (keepsOutside_of_memories_eq rfl rfl _) fun r hclip => ?_
  rw [hclip]
  exact keepsOutside_of_rectEffect (clip_inBuffer hclip) (heffect r (clip_inBuffer hclip))

end

/-- Every command keeps what lies outside the rectangle it touches. -/
theorem exec_next_keepsOutside {s : State} (hinv : s.Inv) (i : Instr) :
    ∃ t, exec i s = .next t ∧ KeepsOutside s t (touchedRect i s) := by
  by_cases hconfig : i.opName ∈ [OpName.nop, .setmode, .setga, .setrange, .setfill]
  · obtain ⟨t, hexec, hsame⟩ := config_samePixels hconfig s
    exact ⟨t, hexec, keepsOutside_of_memories_eq hsame.hdr hsame.surf _⟩
  cases i with
  | blendpx | blendpxDa =>
    exact ⟨_, rfl, unlessHalted_keepsOutside fun _ => withPixel_blend_keepsOutside hinv _⟩
  | fillrect | drawimg =>
    exact ⟨_, rfl, unlessHalted_keepsOutside fun _ =>
      withClip_rectEffect_keepsOutside fun _ hr => blendRect_rectEffect hinv hr _⟩
  | clearrect =>
    exact ⟨_, rfl, unlessHalted_keepsOutside fun _ =>
      withClip_rectEffect_keepsOutside fun _ hr => clearRect_rectEffect hinv hr⟩
  | tonemap =>
    exact ⟨_, rfl, unlessHalted_keepsOutside fun _ =>
      withClip_rectEffect_keepsOutside fun _ hr => toneRect_alone_rectEffect hinv hr⟩
  | tonemapall =>
    refine ⟨_, rfl, unlessHalted_keepsOutside (touched := fullRect s.params) fun _ => ?_⟩
    split
    · next r hfull =>
      have hr := fullRect_inBuffer hfull
      rw [hfull]
      exact keepsOutside_of_rectEffect hr (toneRect_alone_rectEffect hinv hr)
    · exact keepsOutside_of_memories_eq rfl rfl _
  | readpx | mappx =>
    exact ⟨_, rfl, unlessHalted_keepsOutside fun _ =>
      withPixel_keepsOutside fun _ _ _ => keepsOutside_of_memories_eq rfl rfl none⟩
  | extract =>
    exact ⟨_, rfl, unlessHalted_keepsOutside fun _ =>
      withClip_keepsOutside (keepsOutside_of_memories_eq rfl rfl none) fun _ _ =>
        keepsOutside_of_memories_eq rfl rfl none⟩
  | rdreg => exact ⟨_, rfl, keepsOutside_of_memories_eq rfl rfl _⟩
  | _ => exact absurd (by simp [Instr.opName]) hconfig

/-- Settles O40: command by command. -/
theorem commandsTouchOnlyTheirRectangle : Obligations.CommandsTouchOnlyTheirRectangle := by
  intro i s t k hinv hexec hk
  obtain ⟨u, hu, hkeeps⟩ := exec_next_keepsOutside hinv i
  rw [hu] at hexec
  cases hexec
  exact hkeeps k hk

end Sys2Proof.Machine
end

section
/-! A pixel read back after a command (41_compositor R195, 43_config R236). -/
namespace Sys2Proof.Machine

open Sys2Proof.Claims

/-- READPX responds the pixel's four elements, in channel order (43_config R236). -/
theorem readpx_responses {s : State} {x y : Word} {px py : Nat} (hrun : s.status.halted = false)
    (hpix : pixcoord s.params x y = some (px, py)) :
    ∃ u, exec (.readpx x y) s = .next u ∧ u.responses = s.responses ++ pixelWords s 0 px py := by
  rw [readpx_running hrun, withPixel_some hpix]
  exact ⟨_, rfl, rfl⟩

/-- READPX of a pixel that a command has just rewritten responds its four new elements. -/
theorem readpx_after_rectEffect {s t : State} {r : Rect} {ok : Nat → Nat → Chan → Elem → Prop} {x y : Word}
    {px py : Nat} (heffect : RectEffect s t r ok) (hrun : s.status.halted = false)
    (hpix : pixcoord s.params x y = some (px, py)) (hcov : r.covers px py = true) :
    (∃ u, exec (.readpx x y) t = .next u ∧ u.responses = t.responses ++ pixelWords t 0 px py) ∧
      ∀ c, ok px py c (t.hdrRead (idx t.params px py c)) := by
  obtain ⟨hdr, surf, draws, rfl, hinside, -⟩ := heffect
  exact ⟨readpx_responses hrun hpix, fun c => (hinside px py c hcov).1⟩

/-- +0.0 is answered as the zero word. -/
theorem answer_widen_zero (s : State) (k : Nat) : s.answer k (F64.widen 0) = 0 := by
  have hzero : F64.widen 0 = .fin false 0 := by
    rw [widen_finite 0 (by decide)]
    simp [fieldMag]
  rw [hzero]
  rfl

theorem pixelWords_of_zero {s : State} {x y : Nat} (h : ∀ c, s.hdrRead (idx s.params x y c) = 0) (k : Nat) :
    pixelWords s k x y = [0, 0, 0, 0] := by
  simp only [pixelWords, Chan.all, List.map_cons, List.map_nil, State.hdrValue, h, answer_widen_zero]

/-- Settles O43: CLEARRECT left +0.0 in the pixel's elements, which are answered as 0. -/
theorem clearedPixelsReadZero : Obligations.ClearedPixelsReadZero := by
  intro s t x y w h x' y' r px py hinv hrun hclip hexec hcov hpix
  rw [clearrect_running hrun, withClip_rect hclip] at hexec
  cases hexec
  obtain ⟨⟨u, hu, hresponses⟩, hzero⟩ :=
    readpx_after_rectEffect (clearRect_rectEffect hinv (clip_inBuffer hclip)) hrun hpix hcov
  exact ⟨u, hu, hresponses.trans (by rw [pixelWords_of_zero hzero])⟩

/-- What a merge computes in mode source: each colour's product with As, and As as a byte (40_blend R149). -/
theorem mergeValue_source {s : State} (hmode : s.mode = .source) (p : Nat) (src : Quad F64) :
    let as := (src.a.mul (F64.ofBits s.galpha)).div (F64.ofNat 255)
    MergeValue s p src .r = src.r.mul as ∧ MergeValue s p src .g = src.g.mul as ∧
      MergeValue s p src .b = src.b.mul as ∧ MergeValue s p src .a = as.mul (F64.ofNat 255) := by
  simp only [MergeValue, hmode, comp, alpha, and_self]

/-- Settles O44: BLENDPX stored the products of mode source in the pixel's elements, and READPX answers those. -/
theorem sourceModeRoundTrip : Obligations.SourceModeRoundTrip := by
  intro s t x y r g b a px py hinv hrun hmode hpix hexec as
  rw [blendpx_running hrun, withPixel_some hpix] at hexec
  cases hexec
  obtain ⟨hx, hy⟩ := pixcoord_bounds hpix
  have hcov : (pixelRect px py).covers px py = true := (covers_iff _ _ _).2 (by simp [pixelRect])
  obtain ⟨⟨u, hu, hresponses⟩, hstored⟩ :=
    readpx_after_rectEffect (blendPixel_rectEffect hinv _ hx hy) hrun hpix hcov
  obtain ⟨hr, hg, hb, ha⟩ := mergeValue_source hmode (pixelNumber s.params px py)
    { r := F64.ofBits r, g := F64.ofBits g, b := F64.ofBits b, a := F64.ofBits a }
  exact ⟨u, _, _, _, _, _, _, _, _, hu, hresponses,
    ⟨hr ▸ hstored .r, answers_answer _ _ _⟩, ⟨hg ▸ hstored .g, answers_answer _ _ _⟩,
    ⟨hb ▸ hstored .b, answers_answer _ _ _⟩, ⟨ha ▸ hstored .a, answers_answer _ _ _⟩⟩

end Sys2Proof.Machine
end

section
/-! The quantizer (42_tonemap R213). -/
namespace Sys2Proof

theorem F64.fin_le (s t : Bool) (m n : Nat) : (F64.fin s m).le (.fin t n) = decide (units s m ≤ units t n) := by
  simp only [F64.le, F64.lt, F64.eq, F64.place, EInt.lt, EInt.fin.injEq, ← Bool.decide_or, ← le_iff_lt_or_eq]

theorem F64.le_ofNat (n m : Nat) : (F64.fin false n).le (F64.ofNat m) = decide (n ≤ m * unit64) := by
  rw [F64.ofNat, F64.fin_le, units_false, units_false, decide_eq_decide, Nat.cast_le]

theorem F64.ofNat_le (m n : Nat) : (F64.ofNat m).le (.fin false n) = decide (m * unit64 ≤ n) := by
  rw [F64.ofNat, F64.fin_le, units_false, units_false, decide_eq_decide, Nat.cast_le]

/-- What is at least a positive whole number is not at most 0 (00_scope R17). -/
theorem F64.not_le_zero_of_ofNat_le {v : F64} {n : Nat} (hn : 0 < n) (h : (F64.ofNat n).le v = true) :
    v.le (F64.ofNat 0) = false := by
  cases v with
  | nan => cases h
  | inf neg =>
    cases neg with
    | true => cases h
    | false => rfl
  | fin neg m =>
    have hpos : (0 : Int) < (n * unit64 : Nat) := Int.natCast_pos.2 (Nat.mul_pos hn unit64_pos)
    rw [F64.ofNat, F64.fin_le, units_false, decide_eq_true_eq] at h
    rw [F64.ofNat, F64.fin_le, units_false, decide_eq_false_iff_not, Nat.zero_mul]
    omega

theorem roundHalfEven_mul (k : Nat) {den : Nat} (hden : 0 < den) : roundHalfEven (k * den) den = k := by
  simp only [roundHalfEven, Nat.mul_div_cancel _ hden, Nat.mul_mod_left, Nat.mul_zero, hden, if_true]

/-- Rounding does not pass a whole number. -/
theorem roundHalfEven_le {num den k : Nat} (hden : 0 < den) (h : num ≤ k * den) : roundHalfEven num den ≤ k := by
  rcases Nat.lt_or_eq_of_le h with hlt | rfl
  · have hquot : num / den < k := Nat.div_lt_of_lt_mul (by rwa [Nat.mul_comm])
    rcases roundHalfEven_cases num den with ⟨hround, -⟩ | ⟨hround, -⟩ <;> omega
  · exact (roundHalfEven_mul k hden).le

namespace Machine

/-- Q of a finite value, its tests in their order. -/
theorem quantize_fin (neg : Bool) (n : Nat) : quantize (.fin neg n) =
    if (F64.fin neg n).le (F64.ofNat 0) then 0
    else if (F64.ofNat 255).le (.fin neg n) then 255
    else BitVec.ofNat 8 (roundHalfEven n unit64) := rfl

theorem quantize_of_le_zero {v : F64} (h : v.le (F64.ofNat 0) = true) : quantize v = 0 := by
  cases v with
  | nan => rfl
  | inf neg =>
    cases neg with
    | true => rfl
    | false => cases h
  | fin neg n => rw [quantize_fin, if_pos h]

theorem quantize_of_ge_255 {v : F64} (h : (F64.ofNat 255).le v = true) : quantize v = 255 := by
  have hpos := F64.not_le_zero_of_ofNat_le (by decide) h
  cases v with
  | nan => cases h
  | inf neg =>
    cases neg with
    | true => cases h
    | false => rfl
  | fin neg n => rw [quantize_fin, if_neg (Bool.eq_false_iff.1 hpos), if_pos h]

/-- From 0 to 255, ends included, the quantizer is the rounding to the nearest whole number. -/
theorem quantize_toNat {n : Nat} (h : n ≤ 255 * unit64) : (quantize (.fin false n)).toNat = roundHalfEven n unit64 := by
  by_cases hzero : (F64.fin false n).le (F64.ofNat 0) = true
  · rw [quantize_of_le_zero hzero]
    rw [F64.le_ofNat, decide_eq_true_eq, Nat.zero_mul, Nat.le_zero] at hzero
    have hround := roundHalfEven_mul 0 unit64_pos
    rw [Nat.zero_mul] at hround
    rw [hzero, hround]
    rfl
  by_cases htop : (F64.ofNat 255).le (.fin false n) = true
  · rw [quantize_of_ge_255 htop]
    rw [F64.ofNat_le, decide_eq_true_eq] at htop
    rw [h.antisymm htop, roundHalfEven_mul 255 unit64_pos]
    rfl
  · have hbyte : roundHalfEven n unit64 < 2 ^ 8 := Nat.lt_succ_of_le (roundHalfEven_le unit64_pos h)
    rw [quantize_fin, if_neg hzero, if_neg htop, BitVec.toNat_ofNat, Nat.mod_eq_of_lt hbyte]

/-- Settles O53: outside 0 to 255 the quantizer saturates, and between them it rounds to nearest, ties to even. -/
theorem quantizerSaturatesAndRounds : Obligations.QuantizerSaturatesAndRounds := by
  refine fun v => ⟨fun hnan => by rw [hnan]; rfl, quantize_of_le_zero, quantize_of_ge_255, ?_⟩
  rintro n rfl hle
  rw [F64.le_ofNat, decide_eq_true_eq] at hle
  rw [quantize_toNat hle]
  exact roundHalfEven_near unit64_pos

end Machine
end Sys2Proof
end

section
/-! The range-mapper's divisor (42_tonemap R221): a rounded difference is a zero only where the exact one is. -/
namespace Sys2Proof

/-- A positive number of units does not round to 0, because one unit is a binary64 value, and nearer. -/
theorem roundPlaces_pos {k : Nat} (hk : 0 < k) : 0 < roundPlaces 53 k 1 := by
  have hone : Claims.Representable 53 1 := ⟨1, 0, by decide, by decide⟩
  obtain ⟨hnear, -⟩ := roundPlaces_nearest (num := k) (by decide) Nat.one_pos hone
  omega

theorem F64.ofUnits_eq_zero {zeroNeg neg : Bool} {i : Int} (h : F64.ofUnits zeroNeg i = .fin neg 0) : i = 0 := by
  by_contra hi
  have hpos := roundPlaces_pos (Int.natAbs_pos.2 hi)
  rw [F64.ofUnits, if_neg hi, F64.round] at h
  split at h
  · cases h
  · obtain ⟨-, hround⟩ := F64.fin.inj h
    omega

theorem units_not (neg : Bool) (n : Nat) : units (!neg) n = -units neg n := by
  cases neg
  · rfl
  · exact (Int.neg_neg _).symm

/-- A difference is a zero only where the two values are equal (00_scope R14, R17). -/
theorem F64.eq_of_sub_eq_zero {x y : F64} {neg : Bool} (h : x.sub y = .fin neg 0) : x.eq y = true := by
  cases x with
  | nan => cases h
  | inf s =>
    cases y with
    | nan => cases h
    | inf t =>
      change (if s = !t then F64.inf s else .nan) = _ at h
      split at h <;> cases h
    | fin t n => cases h
  | fin s m =>
    cases y with
    | nan => cases h
    | inf t => cases h
    | fin t n =>
      have hsum : units s m + units (!t) n = 0 := F64.ofUnits_eq_zero h
      rw [units_not] at hsum
      have hunits : units s m = units t n := by omega
      simp only [F64.eq, F64.place, hunits, decide_true]

namespace Machine

/-- Settles O54: the invariant keeps the ends of every channel unequal. -/
theorem rangeMapperNeverDividesByZero : Obligations.RangeMapperNeverDividesByZero := by
  intro s c hinv neg hzero
  have hequal : badRange (s.rlo.get c) (s.rhi.get c) = true := F64.eq_of_sub_eq_zero hzero
  have hunequal := hinv.ranges c (mem_chan_all c)
  rw [hequal] at hunequal
  cases hunequal

end Machine
end Sys2Proof
end

section
/-! The tone-map commands: what they do, and what they do not read (42_tonemap R210, R217 to R219). -/
namespace Sys2Proof.Machine

open Sys2Proof.Claims

/-! ## MAPPX -/

/-- Settles O32: the four words are those of the range-mapper's value of each channel. -/
theorem mappxRespondsTheRangeMap : Obligations.MappxRespondsTheRangeMap := by
  refine ⟨fun s x y hrun => ?_, fun _ _ => rfl, otherHeadersFault .mappx 2 (header_mask_of_no_field rfl)⟩
  rw [mappx_running hrun]
  refine ⟨fun px py hpix => ?_, fun hnone => ?_⟩
  · rw [withPixel_some hpix]
    exact ⟨_, _, _, _, _, rfl, answers_answer _ _ _, answers_answer _ _ _, answers_answer _ _ _,
      answers_answer _ _ _⟩
  · rw [withPixel_none hnone]
    rfl

/-! ## TONEMAP and TONEMAPALL -/

theorem tonemap_running {s : State} (hrun : s.status.halted = false) (x y w h : Word) :
    exec (.tonemap x y w h) s = .next (s.withClip 0x20 x y w h id fun r t => t.toneRect r) :=
  congrArg _ (unlessHalted_running hrun _)

theorem fullRect_legal {p : Params} (hp : p.legal) :
    fullRect p = some { x0 := 0, y0 := 0, x1 := p.width, y1 := p.height } := by
  obtain ⟨hwidth, -, hheight, -⟩ := hp
  exact if_pos ⟨hwidth, hheight⟩

/-- What TONEMAPALL does: the tone-map of the whole buffer (42_tonemap R218). -/
def State.toneFull (s : State) : State :=
  match fullRect s.params with
  | some r => s.toneRect r
  | none => s

theorem toneFull_some {s : State} {r : Rect} (h : fullRect s.params = some r) : s.toneFull = s.toneRect r := by
  rw [State.toneFull, h]

theorem toneFull_none {s : State} (h : fullRect s.params = none) : s.toneFull = s := by
  rw [State.toneFull, h]

theorem exec_tonemapall (s : State) : exec .tonemapall s = .next (s.unlessHalted State.toneFull) := rfl

theorem tonemapall_running {s : State} (hrun : s.status.halted = false) {r : Rect}
    (hfull : fullRect s.params = some r) : exec .tonemapall s = .next (s.toneRect r) := by
  rw [exec_tonemapall, unlessHalted_running hrun, toneFull_some hfull]

theorem withClip_toneRect_hdr (s : State) (op : BitVec 8) (x y w h : Word) :
    (s.withClip op x y w h id fun r t => t.toneRect r).hdr = s.hdr := by
  rcases withClip_cases s op x y w h id fun r t => t.toneRect r with hbad | hempty | ⟨r, -, hrect⟩
  · rw [hbad, State.raise_hdr]
  · rw [hempty, id]
  · rw [hrect, State.toneRect_hdr]

/-- Settles O39: both commands are the tone-map of a rectangle in the buffer, which leaves the HDR memory. -/
theorem tonemapRewritesSurfOnly : Obligations.TonemapRewritesSurfOnly := by
  refine ⟨fun s x y w h hinv hrun => ?_, fun _ _ _ _ => rfl, rfl,
    otherHeadersFault .tonemap 4 (header_mask_of_no_field rfl),
    otherHeadersFault .tonemapall 0 (header_mask_of_no_field rfl)⟩
  have hfull := fullRect_legal hinv.params
  refine ⟨rectCommand_of_rectEffect (tonemap_running hrun x y w h) fun _ hr => toneRect_alone_rectEffect hinv hr,
    ⟨_, tonemapall_running hrun hfull, toneRect_alone_rectEffect hinv (fullRect_inBuffer hfull)⟩, ?_⟩
  rintro t (hexec | hexec)
  · rw [tonemap_running hrun] at hexec
    cases hexec
    exact withClip_toneRect_hdr s 0x20 x y w h
  · rw [tonemapall_running hrun hfull] at hexec
    cases hexec
    exact State.toneRect_hdr s _

/-! ## What the tone-map does not read -/

/-- The state with other contents of MODE, GALPHA and the fill registers. -/
def State.withBlendRegisters (s : State) (m : BlendMode) (ga : Word) (q : Quad Word) : State :=
  { s with mode := m, galpha := ga, fill := q }

/-- `f` does to a state with other blend registers what it does to the state, and leaves them. -/
def IgnoresBlendRegisters (f : State → State) : Prop :=
  ∀ s m ga q, f (s.withBlendRegisters m ga q) = (f s).withBlendRegisters m ga q

theorem ignores_raise (f : FaultInfo) (op : BitVec 8) : IgnoresBlendRegisters fun s => s.raise f op :=
  fun _ _ _ _ => rfl

/-- TMPIX reads an element, the ranges and the parameters (42_tonemap R214). -/
theorem ignores_tonePixel (x y : Nat) : IgnoresBlendRegisters fun s => s.tonePixel x y := fun _ _ _ _ => rfl

theorem ignores_toneAll (l : List (Nat × Nat)) : IgnoresBlendRegisters fun s => s.toneAll l := by
  intro s m ga q
  induction l generalizing s with
  | nil => rfl
  | cons p rest ih =>
    simp only [toneAll_cons, ignores_tonePixel p.1 p.2 s m ga q, ih]

theorem ignores_toneRect (r : Rect) : IgnoresBlendRegisters fun s => s.toneRect r := fun s m ga q =>
  congrArg (State.present · r) (ignores_toneAll r.pixels s m ga q)

/-- MAPPX's words are computed from the HDR memory and the ranges alone (42_tonemap R219). -/
theorem ignores_mapWords (x y : Nat) : IgnoresBlendRegisters fun s => (s.respond (mapWords s x y)).tick :=
  fun _ _ _ _ => rfl

theorem ignores_unlessHalted {f : State → State} (hf : IgnoresBlendRegisters f) :
    IgnoresBlendRegisters fun s => s.unlessHalted f := by
  intro s m ga q
  beta_reduce
  cases hhalt : s.status.halted with
  | true => rw [unlessHalted_halted hhalt, unlessHalted_halted (s := s.withBlendRegisters m ga q) hhalt]
  | false =>
    rw [unlessHalted_running hhalt, unlessHalted_running (s := s.withBlendRegisters m ga q) hhalt]
    exact hf s m ga q

theorem ignores_withPixel {f : Nat → Nat → State → State} (hf : ∀ a b, IgnoresBlendRegisters (f a b))
    (op : BitVec 8) (x y : Word) : IgnoresBlendRegisters fun s => s.withPixel op x y f := by
  intro s m ga q
  beta_reduce
  cases hpix : pixcoord s.params x y with
  | none =>
    rw [withPixel_none hpix, withPixel_none (s := s.withBlendRegisters m ga q) hpix]
    exact ignores_raise _ _ s m ga q
  | some c =>
    rw [withPixel_some hpix, withPixel_some (s := s.withBlendRegisters m ga q) hpix]
    exact hf _ _ s m ga q

theorem ignores_withClip {f : Rect → State → State} (hf : ∀ r, IgnoresBlendRegisters (f r)) (op : BitVec 8)
    (x y w h : Word) : IgnoresBlendRegisters fun s => s.withClip op x y w h id f := by
  intro s m ga q
  beta_reduce
  cases hclip : clip s.params x y w h with
  | bad =>
    rw [withClip_bad hclip, withClip_bad (s := s.withBlendRegisters m ga q) hclip]
    exact ignores_raise _ _ s m ga q
  | empty => rw [withClip_empty hclip, withClip_empty (s := s.withBlendRegisters m ga q) hclip, id, id]
  | rect r =>
    rw [withClip_rect hclip, withClip_rect (s := s.withBlendRegisters m ga q) hclip]
    exact hf r s m ga q

theorem ignores_toneFull : IgnoresBlendRegisters State.toneFull := by
  intro s m ga q
  cases hfull : fullRect s.params with
  | none => rw [toneFull_none hfull, toneFull_none (s := s.withBlendRegisters m ga q) hfull]
  | some r =>
    rw [toneFull_some hfull, toneFull_some (s := s.withBlendRegisters m ga q) hfull]
    exact ignores_toneRect r s m ga q

/-- Each of the three commands is an effect that ignores the blend registers. -/
theorem exec_tonemap_ignores {i : Instr} (hi : i.opName ∈ [OpName.tonemap, .tonemapall, .mappx]) :
    ∃ f, IgnoresBlendRegisters f ∧ ∀ s, exec i s = .next (f s) := by
  cases i with
  | tonemap x y w h =>
    exact ⟨_, ignores_unlessHalted (ignores_withClip ignores_toneRect OpName.tonemap.code x y w h), fun _ => rfl⟩
  | tonemapall => exact ⟨_, ignores_unlessHalted ignores_toneFull, exec_tonemapall⟩
  | mappx x y =>
    exact ⟨_, ignores_unlessHalted (ignores_withPixel ignores_mapWords OpName.mappx.code x y), fun _ => rfl⟩
  | _ => exact absurd hi (by simp [Instr.opName])

/-- Settles O42: the effect of each command is the same function of both states. -/
theorem tonemapIgnoresTheBlendRegisters : Obligations.TonemapIgnoresTheBlendRegisters := by
  intro i s t m ga q hi hexec
  obtain ⟨f, hf, heffect⟩ := exec_tonemap_ignores hi
  rw [heffect] at hexec
  cases hexec
  exact (heffect _).trans (congrArg _ (hf s m ga q))

end Sys2Proof.Machine
end

section
/-! The configuration commands in a state that is not halted (43_config R231 to R235). -/
namespace Sys2Proof

/-! ## Comparisons (00_scope R17) -/

theorem EInt.lt_asymm {a b : EInt} (h : a.lt b = true) : b.lt a = false := by
  cases a <;> cases b <;> simp only [EInt.lt, decide_eq_true_eq, decide_eq_false_iff_not, reduceCtorEq] at h ⊢
  omega

theorem EInt.lt_self (a : EInt) : a.lt a = false := by
  cases h : a.lt a with
  | false => rfl
  | true => exact h.symm.trans (EInt.lt_asymm h)

/-- `<=` is that neither value is a NaN and the second is not less than the first. -/
theorem F64.le_iff_not_lt {x y : F64} :
    x.le y = true ↔ x.isNan = false ∧ y.isNan = false ∧ y.lt x = false := by
  refine ⟨fun h => ?_, fun ⟨hx, hy, h⟩ => F64.le_of_not_lt hx hy h⟩
  have hx : x.isNan = false := by
    cases x with
    | nan => cases h
    | inf _ | fin _ _ => rfl
  have hy : y.isNan = false := by
    cases y with
    | nan => simp [F64.le, F64.lt, F64.eq, F64.place] at h
    | inf _ | fin _ _ => rfl
  obtain ⟨a, ha⟩ := exists_place hx
  obtain ⟨b, hb⟩ := exists_place hy
  simp only [F64.le, F64.lt, F64.eq, ha, hb, Bool.or_eq_true, decide_eq_true_eq] at h ⊢
  refine ⟨hx, hy, ?_⟩
  rcases h with hlt | rfl
  · exact EInt.lt_asymm hlt
  · exact EInt.lt_self a

/-- No NaN is equal to a value. -/
theorem F64.eq_eq_false_of_nan {x y : F64} (h : x = .nan ∨ y = .nan) : y.eq x = false := by
  rcases h with rfl | rfl
  · simp [F64.eq, F64.place]
  · rfl

namespace Machine

open Sys2Proof.Claims

/-! ## NOP -/

/-- Settles O20: NOP's effect is the identity, and its header has no field. -/
theorem nopHasNoEffect : Obligations.NopHasNoEffect :=
  ⟨fun _ => rfl, rfl, otherHeadersFault .nop 0 (header_mask_of_no_field rfl)⟩

/-! ## SETMODE -/

theorem exec_setmode_unknown {s : State} (hrun : s.status.halted = false) {msel : BitVec 5} (h : 20 ≤ msel.toNat) :
    exec (.setmode msel) s = .next (s.raise (.unknownBlendMode msel) 0x01) := by
  have hselect : s.selectMode msel = s.raise (.unknownBlendMode msel) 0x01 := by
    rw [State.selectMode, (modeOfCode_eq_none msel).2 h]
    rfl
  rw [← hselect]
  exact congrArg _ (unlessHalted_running hrun _)

theorem setmode_header_mask (hdr : Word) :
    OpName.setmode.header hdr &&& ~~~(0x1F00 : Word) = OpName.setmode.code.setWidth 64 := by
  show setmodeHeader (hdrMsel hdr) &&& ~~~(0x1F00 : Word) = 0x01
  generalize hdrMsel hdr = msel
  revert msel
  decide

/-- Settles O21: a selector is a mode's number or one of 20 to 31. -/
theorem setmodeSelectsByNumber : Obligations.SetmodeSelectsByNumber := by
  refine ⟨fun s msel hrun => ⟨fun hlow => ?_, exec_setmode_unknown hrun⟩,
    fun msel => congrArg (fun hdr => [hdr]) (setmodeHeader_eq msel), otherHeadersFault .setmode 0 setmode_header_mask⟩
  rcases msel_cases msel with ⟨m, rfl⟩ | hunknown
  · exact ⟨m, rfl, exec_setmode_code hrun m⟩
  · omega

/-! ## SETGA -/

theorem setga_running {s : State} (hrun : s.status.halted = false) (ga : Word) :
    exec (.setga ga) s = .next (if badGalpha ga then s.raise (.badOperand [ga]) 0x02 else s.setGalpha ga) :=
  congrArg _ (unlessHalted_running hrun _)

/-- SETGA refuses exactly what is no value between 0 and 1 (10_state R39, 43_config R233). -/
theorem badGalpha_eq_false_iff (ga : Word) : badGalpha ga = false ↔
    f0.le (F64.ofBits ga) = true ∧ (F64.ofBits ga).le f1 = true := by
  refine ⟨fun h => (Bool.and_eq_true ..).mp (galphaLegal_of_not_bad h), fun ⟨hlow, hhigh⟩ => ?_⟩
  obtain ⟨-, hnan, hlow⟩ := F64.le_iff_not_lt.1 hlow
  obtain ⟨-, -, hhigh⟩ := F64.le_iff_not_lt.1 hhigh
  rw [badGalpha, hnan, hlow, hhigh]
  rfl

/-- Settles O23: SETGA's test is the negation of 0 <= ga <= 1. -/
theorem setgaAcceptsExactlyTheUnitInterval : Obligations.SetgaAcceptsExactlyTheUnitInterval := by
  refine ⟨fun s ga hrun => ?_, fun _ => rfl, otherHeadersFault .setga 1 (header_mask_of_no_field rfl)⟩
  rw [setga_running hrun, ← badGalpha_eq_false_iff, Bool.not_eq_false]
  exact ⟨fun hgood => by rw [hgood]; rfl, fun hbad => by rw [hbad]; rfl⟩

/-! ## SETRANGE -/

theorem setrange_running {s : State} (hrun : s.status.halted = false) (c : Chan) (low high : Word) :
    exec (.setrange c low high) s = .next (if (F64.ofBits high).eq (F64.ofBits low) then
      s.raise (.degenerateRange c low high) 0x03 else s.setRange c low high) :=
  congrArg _ (unlessHalted_running hrun _)

/-- The header of a SETRANGE as the spec writes it (43_config R234). -/
theorem setrangeHeader_eq (c : Chan) :
    mkHeader OpName.setrange.code 0 (bitsOfChan c) 0 0 = 0x03 ||| (BitVec.ofNat 64 c.index <<< 13) := by
  cases c <;> decide

theorem setrange_header_mask (hdr : Word) :
    OpName.setrange.header hdr &&& ~~~(0x6000 : Word) = OpName.setrange.code.setWidth 64 := by
  show mkHeader 0x03 0 (hdrCh hdr) 0 0 &&& ~~~(0x6000 : Word) = 0x03
  generalize hdrCh hdr = ch
  revert ch
  decide

/-- Settles O24: SETRANGE's test is high == low, and it writes the pair of its channel alone. -/
theorem setrangeWritesBothEnds : Obligations.SetrangeWritesBothEnds := by
  refine ⟨fun s c low high hrun => ⟨fun hdiffer => ?_, fun hequal => ?_, F64.eq_eq_false_of_nan⟩,
    fun c low high => congrArg (fun hdr => [hdr, low, high]) (setrangeHeader_eq c),
    otherHeadersFault .setrange 2 setrange_header_mask⟩
  · rw [setrange_running hrun, hdiffer]
    exact ⟨_, _, rfl, Quad.get_set_same _ c low, Quad.get_set_same _ c high,
      fun d hd => ⟨Quad.get_set_other _ hd low, Quad.get_set_other _ hd high⟩⟩
  · rw [setrange_running hrun, hequal]
    rfl

/-! ## SETFILL -/

theorem setfill_header_mask (hdr : Word) :
    OpName.setfill.header hdr &&& ~~~(0x8000 : Word) = OpName.setfill.code.setWidth 64 := by
  show mkHeader 0x04 0 0 (hdrDa hdr) 0 &&& ~~~(0x8000 : Word) = 0x04
  rcases hdrDa_cases hdr with h | h <;> rw [h] <;> decide

/-- Settles O25: both forms write the fill registers, the second with the alpha 255.0. -/
theorem setfillWritesTheColour : Obligations.SetfillWritesTheColour :=
  ⟨fun _ _ _ _ _ hrun => ⟨congrArg _ (unlessHalted_running hrun _), congrArg _ (unlessHalted_running hrun _)⟩,
    fun _ _ _ _ => ⟨rfl, rfl⟩, otherHeadersFault .setfill 4 setfill_header_mask⟩

end Machine
end Sys2Proof
end

section
/-! Lists put together from parts of one length. -/
namespace Sys2Proof

variable {α β : Type} {f : α → List β} {k : Nat} (hlen : ∀ a, (f a).length = k)
include hlen

theorem length_flatMap_of_length (l : List α) : (l.flatMap f).length = l.length * k := by
  rw [List.length_flatMap, funext hlen, List.map_const', List.sum_replicate, smul_eq_mul]

/-- An element stands `j` places into the part of the `i`-th element. -/
theorem getElem?_flatMap_of_length {l : List α} {i : Nat} {a : α} (ha : l[i]? = some a) {j : Nat} (hj : j < k) :
    (l.flatMap f)[i * k + j]? = (f a)[j]? := by
  induction l generalizing i with
  | nil => cases ha
  | cons b l ih =>
    rw [List.flatMap_cons]
    cases i with
    | zero =>
      cases ha
      rw [Nat.zero_mul, Nat.zero_add, List.getElem?_append_left (by rwa [hlen])]
    | succ i =>
      have hindex : (i + 1) * k + j = k + (i * k + j) := by ring
      rw [hindex, List.getElem?_append_right (by rw [hlen]; omega), hlen, Nat.add_sub_cancel_left]
      exact ih ha

end Sys2Proof
end

section
/-! The read-back commands (43_config R230, R236 to R238). -/
namespace Sys2Proof.Machine

open Sys2Proof.Claims

/-! ## READPX -/

/-- Settles O31: the four words are those of the pixel's elements. -/
theorem readpxRespondsTheStoredPixel : Obligations.ReadpxRespondsTheStoredPixel := by
  refine ⟨fun s x y hrun => ?_, fun _ _ => rfl, otherHeadersFault .readpx 2 (header_mask_of_no_field rfl)⟩
  rw [readpx_running hrun]
  refine ⟨fun px py hpix => ?_, fun hnone => ?_⟩
  · rw [withPixel_some hpix]
    exact ⟨_, _, _, _, _, rfl, answers_answer _ _ _, answers_answer _ _ _, answers_answer _ _ _,
      answers_answer _ _ _⟩
  · rw [withPixel_none hnone]
    rfl

/-! ## EXTRACT -/

theorem extract_running {s : State} (hrun : s.status.halted = false) (x y w h : Word) :
    exec (.extract x y w h) s = .next (s.withClip 0x32 x y w h (fun t => t.respond [0]) fun r t =>
      (t.respond (extractWords t r)).tick) :=
  congrArg _ (unlessHalted_running hrun _)

/-- A rectangle has its columns' number of pixels in each row (41_compositor R184). -/
theorem length_pixels (r : Rect) : r.pixels.length = (r.y1 - r.y0) * (r.x1 - r.x0) := by
  rw [Rect.pixels, length_flatMap_of_length (fun y => by rw [List.length_map, List.length_range']),
    List.length_range']

/-- Where a pixel stands in row-major order (41_compositor R184). -/
theorem getElem?_pixels {r : Rect} {px py : Nat} (h : r.covers px py = true) :
    r.pixels[(py - r.y0) * (r.x1 - r.x0) + (px - r.x0)]? = some (px, py) := by
  obtain ⟨hx0, hx1, hy0, hy1⟩ := (covers_iff r px py).1 h
  have hrow : (List.range' r.y0 (r.y1 - r.y0))[py - r.y0]? = some py := by
    rw [List.getElem?_range' (by omega), Nat.one_mul, Nat.add_sub_cancel' hy0]
  have hcolumn : (List.range' r.x0 (r.x1 - r.x0))[px - r.x0]? = some px := by
    rw [List.getElem?_range' (by omega), Nat.one_mul, Nat.add_sub_cancel' hx0]
  rw [Rect.pixels, getElem?_flatMap_of_length (fun y => by rw [List.length_map, List.length_range']) hrow (by omega),
    List.getElem?_map, hcolumn, Option.map_some]

theorem length_pixelWords (s : State) (k x y : Nat) : (pixelWords s k x y).length = 4 := rfl

theorem getElem?_pixelWords (s : State) (k x y : Nat) (c : Chan) :
    (pixelWords s k x y)[c.index]? = some (s.answer (k + c.index) (s.hdrValue (idx s.params x y c))) := by
  cases c <;> rfl

/-- The size and four words for each pixel (43_config R237). -/
theorem length_extractWords (s : State) (r : Rect) :
    (extractWords s r).length = 1 + 4 * (r.x1 - r.x0) * (r.y1 - r.y0) := by
  rw [extractWords, List.length_cons, length_flatMap_of_length (fun q => length_pixelWords s _ _ _),
    List.length_zipIdx, length_pixels]
  ring

/-- Where the word of a channel of a pixel stands in EXTRACT's response (43_config R237). -/
theorem getElem?_extractWords (s : State) {r : Rect} {px py : Nat} (h : r.covers px py = true) (c : Chan) :
    ∃ k, (extractWords s r)[1 + 4 * ((py - r.y0) * (r.x1 - r.x0) + (px - r.x0)) + c.index]? =
      some (s.answer k (s.hdrValue (idx s.params px py c))) := by
  have hpixel := getElem?_pixels h
  generalize (py - r.y0) * (r.x1 - r.x0) + (px - r.x0) = n at hpixel ⊢
  have hzip : r.pixels.zipIdx[n]? = some ((px, py), n) := by
    rw [List.getElem?_zipIdx, hpixel, Option.map_some, Nat.zero_add]
  have hindex : 1 + 4 * n + c.index = n * 4 + c.index + 1 := by ring
  refine ⟨1 + 4 * n + c.index, ?_⟩
  rw [hindex, extractWords, List.getElem?_cons_succ,
    getElem?_flatMap_of_length (fun q => length_pixelWords s _ _ _) hzip (chan_index_lt c), getElem?_pixelWords,
    ← hindex]

/-- The two halves of EXTRACT's first word, for a rectangle of fewer than 2^32 columns and rows. -/
theorem sizeWord_toNat {r : Rect} (hw : r.x1 - r.x0 < 2 ^ 32) (hh : r.y1 - r.y0 < 2 ^ 32) :
    (sizeWord r).toNat = (r.x1 - r.x0) + 2 ^ 32 * (r.y1 - r.y0) := by
  have hwidth : (r.x1 - r.x0) % 2 ^ 64 = r.x1 - r.x0 := Nat.mod_eq_of_lt (by omega)
  have hheight : ((r.y1 - r.y0) % 2 ^ 64) <<< 32 % 2 ^ 64 = 2 ^ 32 * (r.y1 - r.y0) := by
    rw [Nat.shiftLeft_eq]
    omega
  rw [sizeWord, BitVec.toNat_or, BitVec.toNat_shiftLeft, BitVec.toNat_ofNat, BitVec.toNat_ofNat, hwidth, hheight,
    Nat.or_comm, ← Nat.two_pow_add_eq_or_of_lt hw, Nat.add_comm]

/-- Settles O33: the response is the size word and the words of the rectangle's pixels in row-major order. -/
theorem extractStreamsTheRectangle : Obligations.ExtractStreamsTheRectangle := by
  refine ⟨fun s x y w h hlegal hrun => ?_, fun _ _ _ _ => rfl,
    otherHeadersFault .extract 4 (header_mask_of_no_field rfl)⟩
  rw [extract_running hrun]
  split
  · next hbad => rw [withClip_bad hbad]; rfl
  · next hempty => rw [withClip_empty hempty]; rfl
  · next r hrect =>
    obtain ⟨-, hwidth, -, hheight, -⟩ := hlegal
    obtain ⟨-, hx1, -, hy1⟩ := clip_rect_bounds hrect
    rw [withClip_rect hrect]
    refine ⟨extractWords s r, s.draws + 1, rfl, length_extractWords s r,
      ⟨sizeWord r, rfl, sizeWord_toNat (by omega) (by omega)⟩, fun px py c hcov => ?_⟩
    obtain ⟨k, hword⟩ := getElem?_extractWords s hcov c
    exact ⟨_, hword, answers_answer s k _⟩

/-! ## RDREG -/

/-- The header of an RDREG as the spec writes it (43_config R238). -/
theorem rdregHeader_eq (ridx : BitVec 5) :
    mkHeader OpName.rdreg.code 0 0 0 ridx = 0x3F ||| (ridx.setWidth 64 <<< 16) := by
  revert ridx
  decide

theorem rdreg_header_mask : ∀ ridx : BitVec 5, ridx.toNat < 16 →
    mkHeader OpName.rdreg.code 0 0 0 ridx &&& ~~~(0xF0000 : Word) = 0x3F := by
  decide

/-- A packet of RDREG's OP that decodes has the index of a register (30_encoding R106, R114). -/
theorem rdreg_header_of_decodes {hdr : Word} {ops : List Word} {i : Instr} (h : decodePacket hdr ops = .ok i)
    (hop : hdrOp hdr = OpName.rdreg.code) :
    hdr = mkHeader OpName.rdreg.code 0 0 0 (hdrRidx hdr) ∧ (hdrRidx hdr).toNat < 16 := by
  obtain ⟨n, hheader, hbuild⟩ := decodePacket_eq_ok_iff.1 h
  obtain ⟨hcode, -, -⟩ := (header_eq_iff n hdr).1 hheader
  obtain rfl := OpName.code_injective (hcode.trans hop)
  obtain ⟨reg, hreg, -⟩ := takeReg_eq_ok.1 hbuild
  exact ⟨hheader.symm, (exists_index_iff _).1 ⟨reg, hreg⟩⟩

theorem rdreg_otherHeadersFault : OtherHeadersFault 0x3F 0 0xF0000 := by
  intro s hdr ops hrun hlate hop hother _
  change hdrOp hdr = OpName.rdreg.code at hop
  cases hpacket : decodePacket hdr ops with
  | ok i =>
    obtain ⟨hheader, hridx⟩ := rdreg_header_of_decodes hpacket hop
    rw [hheader] at hother
    exact absurd (rdreg_header_mask _ hridx) hother
  | error e =>
    have hfault := execute_error hpacket hrun hlate
    rwa [hop] at hfault

theorem readReg_of_index {s : State} {reg : Reg} (reg' : Reg) (h : reg.index = reg'.index) :
    s.readReg reg = s.readReg reg' := by
  have hreg := regOfIndex_index reg
  rw [h, regOfIndex_index] at hreg
  rw [Option.some.inj hreg]

/-- Settles O26: an index is one register's. -/
theorem rdregRespondsTheRegister : Obligations.RdregRespondsTheRegister :=
  ⟨fun s reg => ⟨s.readReg reg, rfl, readReg_of_index .status,
      fun h => (readReg_of_index .mode h).trans (modeWord_eq_setWidth s.mode), readReg_of_index .galpha,
      readReg_of_index (.rlo .r), readReg_of_index (.rlo .g), readReg_of_index (.rlo .b), readReg_of_index (.rlo .a),
      readReg_of_index (.rhi .r), readReg_of_index (.rhi .g), readReg_of_index (.rhi .b), readReg_of_index (.rhi .a),
      readReg_of_index (.fill .r), readReg_of_index (.fill .g), readReg_of_index (.fill .b),
      readReg_of_index (.fill .a), readReg_of_index .geom⟩,
    fun k => (exists_index_iff k).symm, fun reg => congrArg (fun hdr => [hdr]) (rdregHeader_eq reg.index),
    rdreg_otherHeadersFault⟩

/-! ## What none of them changes -/

/-- `t` is `s` with words added to the response stream, but for the number of the free values. -/
def OnlyResponds (s t : State) : Prop :=
  ∃ ws d, t = { s with responses := s.responses ++ ws, draws := d }

theorem onlyResponds_refl (s : State) : OnlyResponds s s := ⟨[], s.draws, by rw [List.append_nil]⟩

theorem raise_status_ne {s : State} (hrun : s.status.halted = false) (f : FaultInfo) (op : BitVec 8) :
    (s.raise f op).status ≠ s.status := by
  intro h
  rw [← h] at hrun
  cases hrun

theorem unlessHalted_onlyResponds {s : State} {f : State → State}
    (h : s.status.halted = false → (f s).status = s.status → OnlyResponds s (f s))
    (hstatus : (s.unlessHalted f).status = s.status) : OnlyResponds s (s.unlessHalted f) := by
  cases hh : s.status.halted with
  | true =>
    rw [unlessHalted_halted hh]
    exact onlyResponds_refl s
  | false =>
    rw [unlessHalted_running hh] at hstatus ⊢
    exact h hh hstatus

theorem withPixel_onlyResponds {s : State} {op : BitVec 8} {x y : Word} {f : Nat → Nat → State → State}
    (hf : ∀ a b, OnlyResponds s (f a b s)) (hrun : s.status.halted = false)
    (hstatus : (s.withPixel op x y f).status = s.status) : OnlyResponds s (s.withPixel op x y f) := by
  rcases withPixel_cases s op x y f with hfault | ⟨a, b, -, hpixel⟩
  · rw [hfault] at hstatus
    exact absurd hstatus (raise_status_ne hrun _ _)
  · rw [hpixel]
    exact hf a b

theorem withClip_onlyResponds {s : State} {op : BitVec 8} {x y w h : Word} {e : State → State}
    {f : Rect → State → State} (he : OnlyResponds s (e s)) (hf : ∀ r, OnlyResponds s (f r s))
    (hrun : s.status.halted = false) (hstatus : (s.withClip op x y w h e f).status = s.status) :
    OnlyResponds s (s.withClip op x y w h e f) := by
  rcases withClip_cases s op x y w h e f with hfault | hempty | ⟨r, -, hrect⟩
  · rw [hfault] at hstatus
    exact absurd hstatus (raise_status_ne hrun _ _)
  · rw [hempty]
    exact he
  · rw [hrect]
    exact hf r

/-- Settles O34: command by command; a fault would have changed STATUS. -/
theorem readbackOnlyResponds : Obligations.ReadbackOnlyResponds := by
  intro i s t hname hexec hstatus
  cases i with
  | readpx x y | mappx x y =>
    cases hexec
    exact unlessHalted_onlyResponds (withPixel_onlyResponds fun _ _ => ⟨_, s.draws + 1, rfl⟩) hstatus
  | extract x y w h =>
    cases hexec
    exact unlessHalted_onlyResponds
      (withClip_onlyResponds ⟨_, s.draws, rfl⟩ fun _ => ⟨_, s.draws + 1, rfl⟩) hstatus
  | rdreg reg =>
    cases hexec
    exact ⟨_, s.draws, rfl⟩
  | _ => exact absurd hname (by simp [Instr.opName])

end Sys2Proof.Machine
end

section
/-! Which fault a command raises, and that fault entry is all it then does (60_exceptions R260, R263 to R269). -/
namespace Sys2Proof.Machine

open Sys2Proof.Claims

/-- STATUS and the record of the fault are the same. -/
structure SameStatus (s t : State) : Prop where
  status : t.status = s.status
  faultInfo : t.faultInfo = s.faultInfo

/-- `t` is fault entry from `s` with the fault named, or keeps STATUS where none is named. -/
def RaisesExactly (op : BitVec 8) (s t : State) : Option FaultInfo → Prop
  | some f => t = s.raise f op
  | none => SameStatus s t

/-- Fault entry, with the codes of the fault table (60_exceptions R260, R268). -/
theorem raise_eq_faulted (s : State) (f : FaultInfo) (op : BitVec 8) : s.raise f op = Faulted s (faultCode f) op f := by
  cases f <;> rfl

section
variable {s : State} {op : BitVec 8} {x y w h : Word}

theorem unlessHalted_raisesExactly {f : State → State} {r : Option FaultInfo} (hrun : s.status.halted = false)
    (hf : RaisesExactly op s (f s) r) : RaisesExactly op s (s.unlessHalted f) r := by
  rwa [unlessHalted_running hrun]

/-- A command that tests its operands and raises its fault where they fail the test. -/
theorem ite_raisesExactly {c : Prop} [Decidable c] {t : State} (f : FaultInfo) (ht : SameStatus s t) :
    RaisesExactly op s (if c then s.raise f op else t) (if c then some f else none) := by
  split
  · rfl
  · exact ht

theorem withPixel_raisesExactly {f : Nat → Nat → State → State} (hf : ∀ a b, SameStatus s (f a b s)) :
    RaisesExactly op s (s.withPixel op x y f)
      (if (pixcoord s.params x y).isNone then some (.outOfBounds x y) else none) := by
  cases hpix : pixcoord s.params x y with
  | none => exact withPixel_none hpix op f
  | some q =>
    rw [withPixel_some hpix]
    exact hf q.1 q.2

theorem withClip_raisesExactly {e : State → State} {f : Rect → State → State} (he : SameStatus s (e s))
    (hf : ∀ r, SameStatus s (f r s)) :
    RaisesExactly op s (s.withClip op x y w h e f)
      (if clip s.params x y w h = .bad then some (.badOperand [x, y, w, h]) else none) := by
  cases hclip : clip s.params x y w h with
  | bad => exact withClip_bad hclip op e f
  | empty =>
    rw [withClip_empty hclip]
    exact he
  | rect r =>
    rw [withClip_rect hclip]
    exact hf r

theorem selectMode_raisesExactly (msel : BitVec 5) : RaisesExactly OpName.setmode.code s (s.selectMode msel)
    (if 20 ≤ msel.toNat then some (.unknownBlendMode msel) else none) := by
  rw [State.selectMode]
  cases hmode : modeOfCode msel with
  | none =>
    rw [if_pos ((modeOfCode_eq_none msel).1 hmode)]
    rfl
  | some m =>
    have hknown : ¬ 20 ≤ msel.toNat := fun hle => by simp [(modeOfCode_eq_none msel).2 hle] at hmode
    rw [if_neg hknown]
    exact ⟨rfl, rfl⟩

end

theorem blendPixel_sameStatus (s : State) (src : Quad F64) (x y : Nat) : SameStatus s (s.blendPixel src x y) := by
  constructor <;> simp [State.blendPixel]

theorem blendRect_sameStatus (s : State) (src : Nat × Nat → Quad F64) (r : Rect) :
    SameStatus s (s.blendRect src r) := by
  constructor <;> simp [State.blendRect]

theorem toneFull_sameStatus (s : State) : SameStatus s s.toneFull := by
  cases hfull : fullRect s.params with
  | none =>
    rw [toneFull_none hfull]
    exact ⟨rfl, rfl⟩
  | some r =>
    rw [toneFull_some hfull]
    constructor <;> simp

/-- Running, every instruction raises the fault the table gives it and no other (60_exceptions R260). -/
theorem exec_raisesExactly {s : State} (hrun : s.status.halted = false) (i : Instr) :
    ∃ t, exec i s = .next t ∧ RaisesExactly i.opName.code s t (raises s.params i) := by
  cases i with
  | nop | rdreg => exact ⟨_, rfl, rfl, rfl⟩
  | setmode msel => exact ⟨_, rfl, unlessHalted_raisesExactly hrun (selectMode_raisesExactly msel)⟩
  | setga ga =>
    exact ⟨_, rfl, unlessHalted_raisesExactly hrun (ite_raisesExactly (.badOperand [ga]) ⟨rfl, rfl⟩)⟩
  | setrange c low high =>
    exact ⟨_, rfl, unlessHalted_raisesExactly hrun (ite_raisesExactly (.degenerateRange c low high) ⟨rfl, rfl⟩)⟩
  | blendpx | blendpxDa =>
    exact ⟨_, rfl, unlessHalted_raisesExactly hrun
      (withPixel_raisesExactly fun _ _ => blendPixel_sameStatus s _ _ _)⟩
  | readpx | mappx =>
    exact ⟨_, rfl, unlessHalted_raisesExactly hrun (withPixel_raisesExactly fun _ _ => ⟨rfl, rfl⟩)⟩
  | fillrect | drawimg =>
    exact ⟨_, rfl, unlessHalted_raisesExactly hrun
      (withClip_raisesExactly ⟨rfl, rfl⟩ fun _ => blendRect_sameStatus s _ _)⟩
  | clearrect | tonemap =>
    exact ⟨_, rfl, unlessHalted_raisesExactly hrun
      (withClip_raisesExactly ⟨rfl, rfl⟩ fun _ => by constructor <;> simp)⟩
  | extract =>
    exact ⟨_, rfl, unlessHalted_raisesExactly hrun (withClip_raisesExactly ⟨rfl, rfl⟩ fun _ => ⟨rfl, rfl⟩)⟩
  | tonemapall =>
    exact ⟨_, rfl, unlessHalted_raisesExactly (f := State.toneFull) hrun (toneFull_sameStatus s)⟩
  | _ => exact ⟨_, rfl, unlessHalted_raisesExactly hrun ⟨rfl, rfl⟩⟩

/-- Settles O14: instruction by instruction, the test of its operands is the table's. -/
theorem commandsRaiseTheirOwnFaultsOnly : Obligations.CommandsRaiseTheirOwnFaultsOnly := by
  intro i s hrun
  obtain ⟨t, hexec, hraises⟩ := exec_raisesExactly hrun i
  rw [hexec]
  refine ⟨fun info hinfo => ?_, fun hnone => ?_⟩
  · rw [hinfo] at hraises
    rw [← raise_eq_faulted, hraises]
  · rw [hnone] at hraises
    exact ⟨t, rfl, hraises.status, hraises.faultInfo⟩

/-- The OP of a packet that decodes is its instruction's (30_encoding R110). -/
theorem opName_code_of_decodePacket {hdr : Word} {ops : List Word} {i : Instr} (h : decodePacket hdr ops = .ok i) :
    i.opName.code = hdrOp hdr := by
  obtain ⟨n, hop, -, -, hbuild⟩ := decodePacket_ok h
  obtain ⟨-, rfl⟩ := buildInstr_ok hbuild
  exact code_of_opOfCode hop

/-- Running, a packet has the fault entry of its own OP, or keeps STATUS (60_exceptions R268). -/
theorem execute_faulted_or_sameStatus {hdr : Word} {s : State} (hrun : s.status.halted = false) (hlate : s.late = [])
    (ops : List Word) : (∃ info, execute hdr ops s = .next (Faulted s (faultCode info) (hdrOp hdr) info)) ∨
      ∃ t, execute hdr ops s = .next t ∧ SameStatus s t := by
  cases hpacket : decodePacket hdr ops with
  | error e => exact .inl ⟨.illegalCommand (hdrOp hdr), execute_error hpacket hrun hlate⟩
  | ok i =>
    rw [execute_ok hpacket hlate, ← opName_code_of_decodePacket hpacket]
    obtain ⟨hfault, hkept⟩ := commandsRaiseTheirOwnFaultsOnly i s hrun
    cases hraises : raises s.params i with
    | some info => exact .inl ⟨info, hfault info hraises⟩
    | none =>
      obtain ⟨t, hexec, hstatus, hinfo⟩ := hkept hraises
      exact .inr ⟨t, hexec, hstatus, hinfo⟩

/-- Settles O13: a packet that keeps STATUS does not halt a running machine. -/
theorem faultingCommandWritesStatusOnly : Obligations.FaultingCommandWritesStatusOnly := by
  intro s t hdr ops hrun hlate hexec hhalted
  rcases execute_faulted_or_sameStatus hrun hlate ops with ⟨info, hfault⟩ | ⟨u, hu, hkept⟩
  · rw [hexec] at hfault
    cases hfault
    exact ⟨info, rfl, hrun, rfl⟩
  · rw [hexec] at hu
    cases hu
    rw [hkept.status, hrun] at hhalted
    cases hhalted

end Sys2Proof.Machine
end

section
/-! The halted state, and the wait for the next word (60_exceptions R270, R271, R279). -/
namespace Sys2Proof.Machine

open Sys2Proof.Claims

/-- Halted, an instruction but RDREG has no effect (60_exceptions R270). -/
theorem exec_halted {s : State} (hhalted : s.status.halted = true) {i : Instr} (hi : ∀ r, i ≠ .rdreg r) :
    exec i s = .next s := by
  cases i with
  | nop => rfl
  | rdreg r => exact absurd rfl (hi r)
  | _ => exact congrArg Host.Outcome.next (unlessHalted_halted hhalted _)

/-- Halted, a packet that is not an RDREG is discarded, well formed or not (60_exceptions R270). -/
theorem execute_halted {s : State} (hhalted : s.status.halted = true) (hlate : s.late = []) {hdr : Word}
    {ops : List Word} (hpacket : ∀ r, decodePacket hdr ops ≠ .ok (.rdreg r)) : execute hdr ops s = .next s := by
  cases hdecode : decodePacket hdr ops with
  | error e =>
    simp only [execute, hdecode]
    rw [State.illegal, unlessHalted_halted hhalted, settle_of_none_waiting hlate]
  | ok i =>
    rw [execute_ok hdecode hlate]
    exact exec_halted hhalted fun r hr => hpacket r (hr ▸ hdecode)

/-- Settles O15: the packet is taken whole, and its execution is RDREG's or nothing. -/
theorem haltedRunsOnlyNopAndRdreg : Obligations.HaltedRunsOnlyNopAndRdreg := by
  intro s hdr ops rest hhalted hidle hready hlate hlen hhost
  rw [(stepTakesOneWholePacket s hdr ops rest hready hlen).1 hidle hhost]
  split
  · next r hpacket =>
    rw [execute_ok hpacket]
    · rfl
    · exact hlate
  · next hother =>
    refine execute_halted ?_ ?_ hother
    · exact hhalted
    · exact hlate

theorem CommandEffect.sameStatus_of_halted {n : OpName} {s t : State} (h : CommandEffect n s t)
    (hhalted : s.status.halted = true) : SameStatus s t := by
  cases h with
  | fault f op running => simp [running] at hhalted
  | _ => exact ⟨rfl, rfl⟩

theorem PortEffect.sameStatus {s t : State} (h : PortEffect s t) : SameStatus s t := by
  cases h
  exact ⟨rfl, rfl⟩

/-- Halted, no part of a step but reset changes STATUS (60_exceptions R271). -/
theorem StepParts.sameStatus_of_halted {s t : State} (h : StepParts s t) (hhalted : s.status.halted = true)
    (hreset : HostAct.reset ∉ s.host) : SameStatus s t := by
  induction h with
  | held | takeResponse | takePresent => exact ⟨rfl, rfl⟩
  | collect d next _ _ ih =>
    rw [next] at hreset
    obtain ⟨hstatus, hinfo⟩ := ih hhalted (List.not_mem_of_not_mem_cons hreset)
    exact ⟨hstatus, hinfo⟩
  | command d n _ _ heffect hsettled =>
    obtain ⟨hstatus, hinfo⟩ := heffect.sameStatus_of_halted hhalted
    exact ⟨hsettled.sameStatus.status.trans hstatus, hsettled.sameStatus.faultInfo.trans hinfo⟩
  | port _ _ heffect => exact ⟨heffect.sameStatus.status, heffect.sameStatus.faultInfo⟩
  | reset next => simp [next] at hreset

/-- Settles O16: by the parts of a step; reset puts STATUS at its reset value. -/
theorem haltedUntilReset : Obligations.HaltedUntilReset := by
  refine ⟨fun s t hhalted hreset hstep => ?_, fun s rest hhost => ?_⟩
  · obtain ⟨hstatus, hinfo⟩ := (step_parts hstep).sameStatus_of_halted hhalted hreset
    exact ⟨hstatus, hinfo, by rw [State.faultIrq, hstatus, hhalted]⟩
  · exact ⟨_, by rw [step, hhost, runHost_reset], rfl, rfl⟩

/-- Settles O11: the step has nothing to take. -/
theorem emptyStreamHoldsTheState : Obligations.EmptyStreamHoldsTheState := fun _ => step_of_nothing_next

end Sys2Proof.Machine
end

section
/-! What a command works on lies in the buffer (60_exceptions R262, 00_scope R18, 20_memory R70). -/
namespace Sys2Proof.Machine

open Sys2Proof.Claims

section
variable {p : Params} {r : Rect}

theorem inBuffer_of_bounds (hx : r.x0 < r.x1) (hx1 : r.x1 ≤ p.width) (hy : r.y0 < r.y1) (hy1 : r.y1 ≤ p.height) :
    InBuffer p r := by
  refine ⟨hx, hx1, hy, hy1, fun px py c hcov => ?_⟩
  obtain ⟨-, hpx, -, hpy⟩ := (covers_iff r px py).1 hcov
  exact idx_lt (hpx.trans_le hx1) (hpy.trans_le hy1) c

theorem inBuffer_of_clip {x y w h : Word} (hclip : clip p x y w h = .rect r) : InBuffer p r := by
  obtain ⟨hx, hx1, hy, hy1⟩ := clip_rect_bounds hclip
  exact inBuffer_of_bounds hx hx1 hy hy1

theorem inBuffer_of_clip_rect {x y w h : Word} (hclip : (clip p x y w h).rect? = some r) : InBuffer p r := by
  cases hc : clip p x y w h with
  | bad | empty => simp [hc, Clip.rect?] at hclip
  | rect r' =>
    rw [hc] at hclip
    cases hclip
    exact inBuffer_of_clip hc

theorem inBuffer_of_pixcoord {x y : Word} {px py : Nat} (hpix : pixcoord p x y = some (px, py)) :
    InBuffer p (pixelRect px py) := by
  obtain ⟨hx, hy⟩ := pixcoord_bounds hpix
  exact inBuffer_of_bounds px.lt_succ_self hx py.lt_succ_self hy

theorem inBuffer_of_pixcoord_map {x y : Word}
    (hpix : ((pixcoord p x y).map fun q => pixelRect q.1 q.2) = some r) : InBuffer p r := by
  obtain ⟨q, hq, rfl⟩ := Option.map_eq_some_iff.1 hpix
  exact inBuffer_of_pixcoord hq

theorem inBuffer_of_fullRect (hfull : fullRect p = some r) : InBuffer p r := by
  unfold fullRect at hfull
  split at hfull
  · next hsize =>
    cases hfull
    exact inBuffer_of_bounds hsize.1 le_rfl hsize.2 le_rfl
  · cases hfull

end

/-- The rectangle of a command that uses SURF is that of its pixel, its CLIP or the whole buffer. -/
theorem inBuffer_of_touchedRect {i : Instr} {s : State} {r : Rect} (h : touchedRect i s = some r) :
    InBuffer s.params r := by
  unfold touchedRect at h
  split at h
  · cases h
  cases i with
  | blendpx | blendpxDa => exact inBuffer_of_pixcoord_map h
  | fillrect | clearrect | drawimg | tonemap => exact inBuffer_of_clip_rect h
  | tonemapall => exact inBuffer_of_fullRect h
  | _ => cases h

/-- An instruction whose operands meet no cause of the fault table keeps STATUS, halted or not. -/
theorem exec_keeps_status {i : Instr} {s t : State} (hraises : raises s.params i = none) (hexec : exec i s = .next t) :
    t.status = s.status := by
  cases hhalted : s.status.halted with
  | true => exact ((exec_effect hexec).sameStatus_of_halted hhalted).status
  | false =>
    obtain ⟨u, hu, hstatus, -⟩ := (commandsRaiseTheirOwnFaultsOnly i s hhalted).2 hraises
    rw [hexec] at hu
    cases hu
    exact hstatus

/-- Settles O19: by the bounds of PIXCOORD, CLIP and the whole buffer. -/
theorem commandsReachOnlyIndicesThatExist : Obligations.CommandsReachOnlyIndicesThatExist := by
  refine ⟨fun i s r => inBuffer_of_touchedRect, fun s x y px py hpix => ?_, fun s x y w h r hclip => ?_⟩
  · have hread : raises s.params (.readpx x y) = none := by simp [raises, hpix]
    have hmap : raises s.params (.mappx x y) = none := by simp [raises, hpix]
    exact ⟨inBuffer_of_pixcoord hpix, fun _ => exec_keeps_status hread, fun _ => exec_keeps_status hmap⟩
  · have hextract : raises s.params (.extract x y w h) = none := by simp [raises, hclip]
    exact ⟨inBuffer_of_clip hclip, fun _ => exec_keeps_status hextract⟩

end Sys2Proof.Machine
end

section
/-! Reset: the state it leaves is sound, and of what stood before only SURF, the parameters and the host's own side are
kept (70_reset R290, R291). -/
namespace Sys2Proof.Machine

/-- The size and the stream depths State.reset takes are legal (log 1, 12). -/
theorem reset_params_legal : State.reset.params.legal := by decide

/-- Settles O56: the reset values are legal at every legal size, and an empty surface memory is in its form. -/
theorem resetMeetsTheInvariant : Obligations.ResetMeetsTheInvariant :=
  ⟨resetOf_inv reset_params_legal (memory_wf_nil _), fun _ _ => resetOf_inv⟩

/-- A reset that comes next is the whole step, whatever the decoder and STATUS hold (70_reset R290). -/
theorem step_reset {s : State} {rest : List HostAct} (hhost : s.host = .reset :: rest) :
    step s = .next ({ s with host := rest } : State).applyReset := by
  rw [step, hhost, runHost_reset]

/-- Where no rectangle was worked on, the waiting accesses are settled with nothing contending (log 11). -/
theorem settle_none (s : State) : s.settle none = s.settleAll := rfl

/-- After reset every HDR element is +0.0 (70_reset R291). -/
theorem applyReset_hdrRead (s : State) (i : Nat) : s.applyReset.hdrRead i = 0x00000000 := rfl

/-- Settles O57: the step is the reset, and each field but SURF and the host's own is that of the reset state. -/
theorem resetRestoresAllButSurf : Obligations.ResetRestoresAllButSurf := by
  intro s rest hhost
  refine ⟨fun hlate => settle_of_none_waiting hlate none, _, step_reset hhost, applyReset_hdrRead _, ?_⟩
  rw [settle_none]
  rfl

end Sys2Proof.Machine
end
